-- ==== Sys2Proof/Word.lean ====
section
/-! DEFINITION. The widths of spec/: a byte, a caller address, a command word, and an RGB triple. -/

namespace Sys2Proof

/-- "Every value this spec calls a 'byte' is an 8-bit unsigned number 0..255" (R16). -/
abbrev Byte := BitVec 8

/-- The caller's 16-bit byte address (20_memory.md R50). -/
abbrev Addr := BitVec 16

/-- One command word: a transaction "is encoded as one 32-bit command word" (30_encoding.md R70). -/
abbrev Word := BitVec 32

/-- An RGB triple: "three bytes `(r, g, b)`, in that order" (R16). -/
structure Rgb where
  r : Byte
  g : Byte
  b : Byte
deriving DecidableEq, Repr

end Sys2Proof
end

