-- ==== Sys2Proof/Config.lean ====
section
/-! DEFINITION. The parameters of 00_scope.md: the sizes of R8, the timing of R9, and R17's parameters
at the values the spec decides (log 12). `cycleUnit` is the one R17 leaves open. -/

namespace Sys2Proof.Config

/-- `VRAM_SIZE` (R8): offsets 0x0000..0x1FFF. -/
def vramSize : Nat := 8192

/-- `OAM_SIZE` (R8): offsets 0x00..0x9F. -/
def oamSize : Nat := 160

/-- `SCREEN_W` (R8): pixels per line. -/
def screenW : Nat := 160

/-- `SCREEN_H` (R8): visible lines, 0..143. -/
def screenH : Nat := 144

/-- `LAST_LINE` (R8). -/
def lastLine : Nat := 153

/-- `TILE_BYTES` (R8): bytes per tile. -/
def tileBytes : Nat := 16

/-- `TILESET1_OFFSET` (R8): VRAM offset of Set1 tile 0. -/
def tileset1Offset : Nat := 0x800

/-- `MAP0_BASE` (R8). -/
def map0Base : Nat := 0x1800

/-- `MAP1_BASE` (R8). -/
def map1Base : Nat := 0x1C00

/-- `MAP_COLUMNS` (R8): the horizontal wrap of a tile map. -/
def mapColumns : Nat := 32

/-- `TILE_MAP_ROW_STRIDE` (R8, R17): 32, decision D5. -/
def tileMapRowStride : Nat := 32

/-- `FB_SIZE` (R8): 160 x 144 triples. -/
def fbSize : Nat := 23040

/-- `T_OAM` (R9). -/
def tOam : Nat := 80

/-- `T_VRAM` (R9). -/
def tVram : Nat := 172

/-- `T_HBLANK` (R9). -/
def tHblank : Nat := 204

/-- `T_VBLANK_LINE` (R9). -/
def tVblankLine : Nat := 456

/-- `VBLANK_ENTRY_LINE` (R9): HBlank of this line ends the visible frame. -/
def vblankEntryLine : Nat := 143

/-- `FRAME_CYCLES` (R9): 154 lines of 456 cycles. -/
def frameCycles : Nat := 70224

/-- `LCDC_SELECTOR_POLARITY` (R17): the value of a selector bit that means Set1 (decision D4:
bit value = ordinal). -/
def set1Bit : Bool := true

/-- `FB_RESET` (R17): what every frame-buffer element holds after reset (decision D12). -/
def fbReset : Rgb := ⟨0, 0, 0⟩

/-- `DELTA_BITS` (R17): the width of the delta field of an ADVANCE word. -/
def deltaBits : Nat := 30

/-- `CYCLE_UNIT` (R11, R17): OPEN; the length of the caller's cycle in whatever measure the caller
uses. No rule depends on it and nothing in the model reads it (log 9). -/
opaque cycleUnit : Nat

end Sys2Proof.Config
end

