-- ==== Sys2Proof/Syntax.lean ====
section
/-! DEFINITION. The transactions of the block, one constructor per row of spec/opcode_table.json.
The block has no instruction set; "its 'instructions' are the transactions on its interface" (R3). -/

namespace Sys2Proof

/-- A transaction with its operands. Addresses are the caller's 16-bit addresses `A`, data bytes are
`D`, and `delta` is a natural number (R10). `Instr.wellFormed` says which operands a command word can
carry; log 6 says what the others do. -/
inductive Instr where
  /-- READ_VRAM (R100). -/
  | readVram (a : Addr)
  /-- WRITE_VRAM (R101). -/
  | writeVram (a : Addr) (d : Byte)
  /-- READ_OAM (R102). -/
  | readOam (a : Addr)
  /-- WRITE_OAM (R103). -/
  | writeOam (a : Addr) (d : Byte)
  /-- READ_LCDC (R121). -/
  | readLcdc
  /-- WRITE_LCDC (R122). -/
  | writeLcdc (d : Byte)
  /-- READ_SCX (R123). -/
  | readScx
  /-- WRITE_SCX (R124). -/
  | writeScx (d : Byte)
  /-- READ_SCY (R125). -/
  | readScy
  /-- WRITE_SCY (R126). -/
  | writeScy (d : Byte)
  /-- READ_LY (R127). -/
  | readLy
  /-- WRITE_LY (R128). -/
  | writeLy (d : Byte)
  /-- READ_BGP (R129). -/
  | readBgp
  /-- WRITE_BGP (R130). -/
  | writeBgp (d : Byte)
  /-- READ_UNMAPPED (R131). -/
  | readUnmapped (a : Addr)
  /-- WRITE_UNMAPPED (R132). -/
  | writeUnmapped (a : Addr) (d : Byte)
  /-- ADVANCE (R150). -/
  | advance (delta : Nat)
  /-- READ_FRAME (R170). -/
  | readFrame
deriving DecidableEq, Repr

end Sys2Proof
end

