-- ==== Sys2Proof/WellFormed.lean ====
section
/-! DEFINITION. Which operands a transaction may carry: the address windows of 20_memory.md R51 and
the 30-bit delta of 30_encoding.md R72. -/

namespace Sys2Proof

/-- The VRAM window of R51: 0x8000..0x9FFF. -/
def inVramWindow (a : Addr) : Bool := decide (0x8000 ≤ a.toNat) && decide (a.toNat ≤ 0x9FFF)

/-- The OAM window of R51: 0xFE00..0xFE9F. -/
def inOamWindow (a : Addr) : Bool := decide (0xFE00 ≤ a.toNat) && decide (a.toNat ≤ 0xFE9F)

/-- The five register addresses of R51. -/
def isRegisterAddr (a : Addr) : Bool :=
  decide (a.toNat ∈ [0xFF40, 0xFF42, 0xFF43, 0xFF44, 0xFF47])

/-- An address "outside every window in rule R51" (R52). -/
def isUnmapped (a : Addr) : Bool := !(inVramWindow a || inOamWindow a || isRegisterAddr a)

/-- The operands lie in the ranges that the transaction's rule gives them. -/
def Instr.wellFormed : Instr → Bool
  | .readVram a => inVramWindow a
  | .writeVram a _ => inVramWindow a
  | .readOam a => inOamWindow a
  | .writeOam a _ => inOamWindow a
  | .readLcdc => true
  | .writeLcdc _ => true
  | .readScx => true
  | .writeScx _ => true
  | .readScy => true
  | .writeScy _ => true
  | .readLy => true
  | .writeLy _ => true
  | .readBgp => true
  | .writeBgp _ => true
  | .readUnmapped a => isUnmapped a
  | .writeUnmapped a _ => isUnmapped a
  | .advance delta => decide (delta < 2 ^ Config.deltaBits)
  | .readFrame => true

end Sys2Proof
end

