-- ==== Sys2Proof/Decode.lean ====
section
/-! DEFINITION. The command-word decoder and encoder (30_encoding.md R70 to R77), and the opcode
table's match and mask of each row. -/

namespace Sys2Proof

/-- Why the decoder refuses a word: `IllegalCommand` is its one verdict (R76). -/
inductive DecodeError where
  | illegalCommand
deriving DecidableEq, Repr

/-- The kind field `K`, bits [31:30] (R71). -/
inductive CommandKind where
  | read
  | write
  | advance
  | frame
deriving DecidableEq, Repr

/-- "A decoder tells the kind from bits [31:30] alone" (R71). -/
def commandKind (w : Word) : CommandKind :=
  if w.extractLsb' 30 2 = 0b00#2 then .read
  else if w.extractLsb' 30 2 = 0b01#2 then .write
  else if w.extractLsb' 30 2 = 0b10#2 then .advance
  else .frame

/-- The address field `A`, bits [23:8] (R73, R74). -/
def addrField (w : Word) : Addr := w.extractLsb' 8 16

/-- The data field `D`, bits [7:0] (R74). -/
def dataField (w : Word) : Byte := w.extractLsb' 0 8

/-- The reserved bits [29:24] of a READ or WRITE word (R73, R74). -/
def reservedField (w : Word) : BitVec 6 := w.extractLsb' 24 6

/-- The field `N`, bits [29:0]: the delta of an ADVANCE word (R72), zero in a FRAME word (R75). -/
def deltaField (w : Word) : BitVec 30 := w.extractLsb' 0 30

/-- The READ column of R77: the first matching row applies. -/
def decodeRead (a : Addr) : Instr :=
  if a.extractLsb' 13 3 = 0b100#3 then .readVram a
  else if a.extractLsb' 8 8 = 0xFE#8 ∧ (a.extractLsb' 0 8).toNat ≤ 0x9F then .readOam a
  else if a = 0xFF40#16 then .readLcdc
  else if a = 0xFF42#16 then .readScx
  else if a = 0xFF43#16 then .readScy
  else if a = 0xFF44#16 then .readLy
  else if a = 0xFF47#16 then .readBgp
  else .readUnmapped a

/-- The WRITE column of R77: the first matching row applies. -/
def decodeWrite (a : Addr) (d : Byte) : Instr :=
  if a.extractLsb' 13 3 = 0b100#3 then .writeVram a d
  else if a.extractLsb' 8 8 = 0xFE#8 ∧ (a.extractLsb' 0 8).toNat ≤ 0x9F then .writeOam a d
  else if a = 0xFF40#16 then .writeLcdc d
  else if a = 0xFF42#16 then .writeScx d
  else if a = 0xFF43#16 then .writeScy d
  else if a = 0xFF44#16 then .writeLy d
  else if a = 0xFF47#16 then .writeBgp d
  else .writeUnmapped a d

/-- The decoder: total on every word, refusing exactly the reserved words of R76. -/
def decode (w : Word) : Except DecodeError Instr :=
  match commandKind w with
  | .read =>
    if reservedField w = 0 ∧ dataField w = 0 then .ok (decodeRead (addrField w))
    else .error .illegalCommand
  | .write =>
    if reservedField w = 0 then .ok (decodeWrite (addrField w) (dataField w))
    else .error .illegalCommand
  | .advance => .ok (.advance (deltaField w).toNat)
  | .frame => if deltaField w = 0 then .ok .readFrame else .error .illegalCommand

/-- The READ format of R73: `00000000AAAAAAAAAAAAAAAA00000000`. -/
def readWord (a : Addr) : Word := 0b00#2 ++ 0b000000#6 ++ a ++ 0x00#8

/-- The WRITE format of R74: `01000000AAAAAAAAAAAAAAAADDDDDDDD`. -/
def writeWord (a : Addr) (d : Byte) : Word := 0b01#2 ++ 0b000000#6 ++ a ++ d

/-- The ADVANCE format of R72: `10` and the 30 bits of the delta. -/
def advanceWord (delta : Nat) : Word := 0b10#2 ++ BitVec.ofNat 30 delta

/-- The FRAME word of R75, 0xC0000000. -/
def frameWord : Word := 0b11#2 ++ 0#30

/-- The command word of a well-formed transaction. -/
def encode : Instr → Word
  | .readVram a => readWord a
  | .writeVram a d => writeWord a d
  | .readOam a => readWord a
  | .writeOam a d => writeWord a d
  | .readLcdc => readWord 0xFF40#16
  | .writeLcdc d => writeWord 0xFF40#16 d
  | .readScx => readWord 0xFF42#16
  | .writeScx d => writeWord 0xFF42#16 d
  | .readScy => readWord 0xFF43#16
  | .writeScy d => writeWord 0xFF43#16 d
  | .readLy => readWord 0xFF44#16
  | .writeLy d => writeWord 0xFF44#16 d
  | .readBgp => readWord 0xFF47#16
  | .writeBgp d => writeWord 0xFF47#16 d
  | .readUnmapped a => readWord a
  | .writeUnmapped a d => writeWord a d
  | .advance delta => advanceWord delta
  | .readFrame => frameWord

/-- The `match` column of spec/opcode_table.json for the transaction's row. -/
def rowMatch : Instr → Word
  | .readVram _ => 0x00800000#32
  | .writeVram _ _ => 0x40800000#32
  | .readOam _ => 0x00FE0000#32
  | .writeOam _ _ => 0x40FE0000#32
  | .readLcdc => 0x00FF4000#32
  | .writeLcdc _ => 0x40FF4000#32
  | .readScx => 0x00FF4200#32
  | .writeScx _ => 0x40FF4200#32
  | .readScy => 0x00FF4300#32
  | .writeScy _ => 0x40FF4300#32
  | .readLy => 0x00FF4400#32
  | .writeLy _ => 0x40FF4400#32
  | .readBgp => 0x00FF4700#32
  | .writeBgp _ => 0x40FF4700#32
  | .readUnmapped _ => 0x00000000#32
  | .writeUnmapped _ _ => 0x40000000#32
  | .advance _ => 0x80000000#32
  | .readFrame => 0xC0000000#32

/-- The `mask` column of spec/opcode_table.json for the transaction's row. -/
def rowMask : Instr → Word
  | .readVram _ => 0xFFE000FF#32
  | .writeVram _ _ => 0xFFE00000#32
  | .readOam _ => 0xFFFF00FF#32
  | .writeOam _ _ => 0xFFFF0000#32
  | .readLcdc => 0xFFFFFFFF#32
  | .writeLcdc _ => 0xFFFFFF00#32
  | .readScx => 0xFFFFFFFF#32
  | .writeScx _ => 0xFFFFFF00#32
  | .readScy => 0xFFFFFFFF#32
  | .writeScy _ => 0xFFFFFF00#32
  | .readLy => 0xFFFFFFFF#32
  | .writeLy _ => 0xFFFFFF00#32
  | .readBgp => 0xFFFFFFFF#32
  | .writeBgp _ => 0xFFFFFF00#32
  | .readUnmapped _ => 0xFF0000FF#32
  | .writeUnmapped _ _ => 0xFF000000#32
  | .advance _ => 0xC0000000#32
  | .readFrame => 0xFFFFFFFF#32

/-- The one command word made of the low `nbits` bits of `w`; every bit above is 0 (log 6). -/
def tableWord (nbits w : Nat) : Word := BitVec.ofNat 32 (w % 2 ^ nbits)

/-- What the decoder reads from a word numbered as spec/opcode_table.json numbers it. -/
def decodeTableWord (nbits w : Nat) : Option Instr := (decode (tableWord nbits w)).toOption

end Sys2Proof
end

