-- ==== Sys2Proof/Machine/State.lean ====
section
/-! DEFINITION. The architectural state of 10_state.md (R20 to R35), the results a transaction answers
(60_exceptions.md), and the state after reset. `pending` and `result` are the model's own fields for
the caller's side of the interface (logs 1 and 2). -/

namespace Sys2Proof.Machine

/-- The four modes; "exactly one active at a time" (R22). -/
inductive Mode where
  | hblank
  | vblank
  | oamSearch
  | vramTransfer
deriving DecidableEq, Repr

/-- Which of the two tile-data or tile-map windows (R14, R29). -/
inductive TileSelector where
  | set0
  | set1
deriving DecidableEq, Repr

/-- The sprite size field of LCDC (R14, R29). -/
inductive SpriteSize where
  | size8x8
  | size8x16
deriving DecidableEq, Repr

/-- A colour ordinal, 0..3 (R14). -/
abbrev PixelColor := Fin 4

/-- LCDControlRegister: one field per bit of its byte (R29). Only `bgwTileData` and `bgTileMap` affect
behaviour (R29, R135). -/
structure LcdControl where
  lcdEnable : Bool
  windowTileMap : TileSelector
  windowEnable : Bool
  bgwTileData : TileSelector
  bgTileMap : TileSelector
  spriteSize : SpriteSize
  spriteEnable : Bool
  bgEnable : Bool
deriving DecidableEq, Repr

/-- LCDStatusRegister: the five stored fields; the mode bits of its byte mirror `State.mode` and are not
stored (R30). -/
structure LcdStatus where
  ieCoincidence : Bool
  ieOam : Bool
  ieVblank : Bool
  ieHblank : Bool
  coincidence : Bool
deriving DecidableEq, Repr

/-- LCDPosition (R31). `windowX` holds the window's actual x plus 7 (R82); the window bytes have no
address and nothing reads them. -/
structure LcdPosition where
  scrollX : Byte
  scrollY : Byte
  windowY : Byte
  windowX : Byte
deriving DecidableEq, Repr

/-- A byte store (VRAM or OAM), sparse: offsets strictly rising, no entry equal to what an unlisted
offset reads as. -/
abbrev Memory := List Host.Cell

/-- What an unlisted offset of a byte store reads as: its reset contents, 0x00 (R35). -/
def Memory.unlisted : Byte := 0x00

/-- The frame buffer, sparse in the same form: element `y*160 + x` is the pixel at column `x` of row `y`
(R28); an unlisted element reads as `Config.fbReset`. -/
abbrev FrameBuffer := List (Nat × Rgb)

/-- The caller-visible errors (R180 to R183). -/
inductive ErrorKind where
  /-- "register or memory address outside any defined window" (R181); raised by READ_UNMAPPED and
  WRITE_UNMAPPED. -/
  | unmappedAddress
  /-- "a decoded register field value outside its legal ordinal range" (R182); no transaction raises
  it. -/
  | invalidFieldEncoding
  /-- A read of the write-only palette register (R183); raised by READ_BGP. -/
  | writeToReadOnly
deriving DecidableEq, Repr

/-- The fault kinds of R185. A fault of this block is a value of the state element `State.fault`, after
which the block answers every transaction with `Faulted` (R184); no step ends in `Host.Outcome.fault`
(log 5). -/
inductive Fault where
  /-- Raised by ADVANCE at the end of VRAMTransfer when `line ≥ 144` (R146). Safe: nothing is rendered
  and the block never leaves the faulted state, as R184 says. -/
  | renderRowOutOfRange
  /-- Raised by ADVANCE at the end of HBlank when `line = 255` (R156). Safe: the line is not advanced and
  the block never leaves the faulted state, as R184 says. -/
  | lineCounterOverflow
deriving DecidableEq, Repr

/-- Why a step has no meaning in the model. -/
inductive Refusal where
  /-- Raised by an arm of `exec` for an instruction without a meaning; no arm is such. Safe. -/
  | notModelled (mnemonic : String)
  /-- Raised by READ_VRAM, WRITE_VRAM, READ_OAM and WRITE_OAM for an offset outside their store: "a caller
  contract violation", which "cannot occur" because the decoder forwards only in-window offsets (R53;
  93_implementation_defined.md I1: refuse). Safe: no command word reaches it (log 7). -/
  | storeOffsetOutOfRange
deriving DecidableEq, Repr

/-- What a transaction answers to the caller (60_exceptions.md; 95_test_vectors.md, notation). -/
inductive Result where
  /-- Success without data. -/
  | ok
  /-- The byte of a bus read. -/
  | data (b : Byte)
  /-- The snapshot of a frame read: "a copy taken at the instant of the transaction" (R171). -/
  | frame (snapshot : FrameBuffer)
  /-- An error with the address it records as `info` (R180, R181, R183). -/
  | error (kind : ErrorKind) (info : Addr)
  /-- The transaction that raised the fault (R150, R184). -/
  | fault (kind : Fault)
  /-- A transaction in the faulted state (R184). -/
  | faulted (kind : Fault)
  /-- The decoder's verdict on a reserved command word: not an error of the hardware (R76, R186). -/
  | illegalCommand
deriving DecidableEq, Repr

/-- The whole state: R20's `PPUState`, and the caller's side of the interface. -/
structure State where
  /-- The current mode (R22). -/
  mode : Mode
  /-- Cycles accumulated in the current mode or VBlank line (R23). -/
  cycleCounter : Nat
  /-- The current scanline, LY (R24). -/
  line : Byte
  /-- The block's only interrupt-like flag (R25). -/
  vblankPending : Bool
  /-- The 8192 bytes of tile data and tile maps (R26). -/
  vram : Memory
  /-- The 160 bytes of sprite attributes (R27). -/
  oam : Memory
  /-- The LCD control register (R29). -/
  lcdc : LcdControl
  /-- The stored fields of the LCD status register (R30). -/
  stat : LcdStatus
  /-- The position registers (R31). -/
  pos : LcdPosition
  /-- The frame buffer (R28). -/
  fb : FrameBuffer
  /-- `none`, or the fault that stopped the block (R34). -/
  fault : Option Fault
  /-- The model's own: the caller's command words not yet carried out, oldest first (log 1). -/
  pending : List Word
  /-- The model's own: what the latest transaction answered (log 2). -/
  result : Option Result
deriving DecidableEq, Repr

/-- The state of R35, with no command pending and no result yet. -/
def State.reset : State where
  mode := .hblank
  cycleCounter := 0
  line := 0
  vblankPending := false
  vram := []
  oam := []
  lcdc :=
    { lcdEnable := false, windowTileMap := .set0, windowEnable := false, bgwTileData := .set0,
      bgTileMap := .set0, spriteSize := .size8x8, spriteEnable := false, bgEnable := false }
  stat :=
    { ieCoincidence := false, ieOam := false, ieVblank := false, ieHblank := false,
      coincidence := false }
  pos := { scrollX := 0, scrollY := 0, windowY := 0, windowX := 0 }
  fb := []
  fault := none
  pending := []
  result := none

end Sys2Proof.Machine
end

