-- ==== Sys2Proof/Machine/Ops.lean ====
section
/-! DEFINITION. The shared operations: the sparse stores (R13, R53), fetching the caller's next command,
answering a transaction, and raising an error or a fault (60_exceptions.md R180, R184). The block has no
trap entry and no return from one (R190, R191): a raised error or fault is the transaction's answer. -/

namespace Sys2Proof.Machine

variable {α : Type}

/-- The value at key `k`; `d` where none is listed. -/
def Sparse.read (d : α) (k : Nat) : List (Nat × α) → α
  | [] => d
  | (k', v) :: l => if k' = k then v else Sparse.read d k l

/-- The list without its entries at `k`. -/
def Sparse.erase (k : Nat) : List (Nat × α) → List (Nat × α)
  | [] => []
  | (k', v) :: l => if k' = k then Sparse.erase k l else (k', v) :: Sparse.erase k l

/-- The list with an entry put before the first key that is not below it. -/
def Sparse.insert (k : Nat) (v : α) : List (Nat × α) → List (Nat × α)
  | [] => [(k, v)]
  | (k', v') :: l => if k' < k then (k', v') :: Sparse.insert k v l else (k, v) :: (k', v') :: l

/-- Set the value at `k`; writing the default removes the entry. -/
def Sparse.write [DecidableEq α] (d : α) (k : Nat) (v : α) (l : List (Nat × α)) : List (Nat × α) :=
  if v = d then Sparse.erase k l else Sparse.insert k v (Sparse.erase k l)

/-- Keys strictly rising from `lo`, below `size`, and no listed value equal to the default. -/
def Sparse.wfFrom [DecidableEq α] (d : α) (size : Nat) : Nat → List (Nat × α) → Bool
  | _, [] => true
  | lo, (k, v) :: l =>
    decide (lo ≤ k) && decide (k < size) && decide (v ≠ d) && Sparse.wfFrom d size (k + 1) l

/-- `MemRead(store, off, 1)` (R13, R53). -/
def Memory.read (m : Memory) (off : Nat) : Byte := Sparse.read Memory.unlisted off m

/-- `MemWrite(store, off, 1, v)` (R13, R53). -/
def Memory.write (m : Memory) (off : Nat) (v : Byte) : Memory := Sparse.write Memory.unlisted off v m

/-- The canonical form of a byte store of `size` bytes. -/
def Memory.wf (size : Nat) (m : Memory) : Bool := Sparse.wfFrom Memory.unlisted size 0 m

/-- `FB[i]` (R13). -/
def FrameBuffer.read (fb : FrameBuffer) (i : Nat) : Rgb := Sparse.read Config.fbReset i fb

/-- `FB[i] <- c` (R13). -/
def FrameBuffer.write (fb : FrameBuffer) (i : Nat) (c : Rgb) : FrameBuffer :=
  Sparse.write Config.fbReset i c fb

/-- The canonical form of the frame buffer. -/
def FrameBuffer.wf (fb : FrameBuffer) : Bool := Sparse.wfFrom Config.fbReset Config.fbSize 0 fb

/-- The state with the answer of the transaction recorded. -/
def State.reply (s : State) (r : Result) : State := { s with result := some r }

/-- The state with its faulted element set: "the state after the transaction is the state before it with
`fault` set" (R150). -/
def State.enterFault (s : State) (k : Fault) : State :=
  { s with fault := some k, result := some (.fault k) }

/-- A mode begins with the counter at 0: "every threshold crossing resets the counter to 0" (R151). -/
def State.enterMode (s : State) (m : Mode) : State := { s with mode := m, cycleCounter := 0 }

/-- The state with the oldest command taken off, leaving `rest` (log 1). -/
def State.dropTo (s : State) (rest : List Word) : State := { s with pending := rest }

/-- A transaction completes with the answer `r`. -/
def answer (r : Result) (s : State) : Host.Outcome State Fault Refusal := .next (s.reply r)

/-- `raise Error(kind)`: the transaction ends with the error and changes no state element (R180); `info`
is the address that R181 and R183 record. -/
def raiseError (k : ErrorKind) (info : Addr) (s : State) : Host.Outcome State Fault Refusal :=
  answer (.error k info) s

/-- `raise Fault(kind)`: the block enters the faulted state (R184). -/
def raiseFault (k : Fault) (s : State) : Host.Outcome State Fault Refusal := .next (s.enterFault k)

/-- In the faulted state a transaction changes nothing and answers `Faulted(kind)` (R184); otherwise it
runs. This check comes before every other one of the transaction (R189). -/
def unlessFaulted (s : State) (body : Host.Outcome State Fault Refusal) :
    Host.Outcome State Fault Refusal :=
  match s.fault with
  | some k => answer (.faulted k) s
  | none => body

/-- Read one byte of a store of `size` bytes as a transaction (R53). -/
def readStore (size : Nat) (m : Memory) (off : Nat) (s : State) : Host.Outcome State Fault Refusal :=
  if off < size then answer (.data (m.read off)) s else .refused .storeOffsetOutOfRange

/-- The caller's oldest command word and the ones after it, or nothing (log 1). -/
def fetch (s : State) : Option (Word × List Word) :=
  match s.pending with
  | [] => none
  | w :: rest => some (w, rest)

/-- No command pending: the block moves only inside a caller's transaction (R59), so nothing changes
(log 3). -/
def idle (s : State) : Host.Outcome State Fault Refusal := .next s

/-- A reserved word: "no transaction happens, and the state does not change" (R76); the caller gets the
decoder's verdict (log 4). -/
def refuseCommand (e : DecodeError) (s : State) : Host.Outcome State Fault Refusal :=
  match e with
  | .illegalCommand => answer .illegalCommand s

/-- The spec's number of an error kind (R181 to R183). -/
def ErrorKind.code : ErrorKind → Nat
  | .unmappedAddress => 1
  | .invalidFieldEncoding => 2
  | .writeToReadOnly => 3

end Sys2Proof.Machine
end

