-- ==== Sys2Proof/Machine/Flags.lean ====
section
/-! DEFINITION. The flag and status computations: the vertical-blank flag and its output (R25, R187), the
mode ordinal (R22), and the STAT byte (R80, R81, R133). -/

namespace Sys2Proof.Machine

/-- The 2-bit ordinal of a mode, used for the STAT view only (R22). -/
def Mode.ord : Mode → BitVec 2
  | .hblank => 0
  | .vblank => 1
  | .oamSearch => 2
  | .vramTransfer => 3

/-- The mode of a 2-bit ordinal: "every 2-bit mode value decodes" (R81). -/
def Mode.ofOrd (o : BitVec 2) : Mode :=
  if o = 0 then .hblank else if o = 1 then .vblank else if o = 2 then .oamSearch else .vramTransfer

/-- `vblank_pending <- true`; setting a flag already set changes nothing (R154). -/
def State.setVblank (s : State) : State := { s with vblankPending := true }

/-- `vblank_pending <- false` (R170). -/
def State.clearVblank (s : State) : State := { s with vblankPending := false }

/-- The block's level output: it exposes the flag as it stands, and no bit of the block masks it (R187).
How a CPU samples it is outside the block (`IRQ_SINK`, log 10). -/
def State.irqOutput (s : State) : Bool := s.vblankPending

/-- `STAT.encode(s, m)`: bit 7 is 0 and bits 1..0 mirror the mode (R80). -/
def LcdStatus.encode (x : LcdStatus) (m : Mode) : Byte :=
  0#1 ++ BitVec.ofBool x.ieCoincidence ++ BitVec.ofBool x.ieOam ++ BitVec.ofBool x.ieVblank ++
    BitVec.ofBool x.ieHblank ++ BitVec.ofBool x.coincidence ++ m.ord

/-- `STAT.decode(b)`: the enable fields from `b[6:3]`, the mode from `b[1:0]`; bits 7 and 2 are ignored, so
the decoded coincidence flag is false (R81). -/
def LcdStatus.decode (b : Byte) : LcdStatus × Mode :=
  ({ ieCoincidence := b.getLsbD 6, ieOam := b.getLsbD 5, ieVblank := b.getLsbD 4,
     ieHblank := b.getLsbD 3, coincidence := false },
   Mode.ofOrd (b.extractLsb' 0 2))

/-- The STAT view `stat_byte(s)`, an observation with no bus path (R133). -/
def State.statByte (s : State) : Byte := s.stat.encode s.mode

end Sys2Proof.Machine
end

