-- ==== Sys2Proof/Machine/FrameRead.lean ====
section
/-! DEFINITION. The frame read of 45_framebuffer.md (R170 to R172). -/

namespace Sys2Proof.Machine

/-- READ_FRAME (R170): answers a copy of the frame buffer and clears the vertical-blank flag. -/
def execReadFrame (s : State) : Host.Outcome State Fault Refusal :=
  unlessFaulted s (answer (.frame s.fb) s.clearVblank)

end Sys2Proof.Machine
end

