-- ==== Sys2Proof/Machine/Operands.lean ====
section
/-! DEFINITION. Where an operand points: store offsets of caller addresses (R51), tile and tile-map
offsets (R84, R85), and the LCDC byte format (R78, R79). -/

namespace Sys2Proof.Machine

/-- `off <- A - 0x8000` (R100, R101). -/
def vramOffset (a : Addr) : Nat := (a - 0x8000#16).toNat

/-- `off <- A - 0xFE00` (R102, R103). -/
def oamOffset (a : Addr) : Nat := (a - 0xFE00#16).toNat

/-- `tile_base(sel, t) = (sel == Set1 ? 0x800 : 0) + t * 16`, the index unsigned under both selectors
(R84). -/
def tileBase (sel : TileSelector) (t : Byte) : Nat :=
  (match sel with
    | .set1 => Config.tileset1Offset
    | .set0 => 0) + t.toNat * Config.tileBytes

/-- "Select tile-map base: 0x1C00 if `bg_tile_map == Set1` else 0x1800" (R142). -/
def mapBase (sel : TileSelector) : Nat :=
  match sel with
  | .set1 => Config.map1Base
  | .set0 => Config.map0Base

/-- The VRAM offset of a tile-map entry: `map_base + my * TILE_MAP_ROW_STRIDE + mx` (R85). -/
def mapEntryOffset (sel : TileSelector) (my mx : Nat) : Nat :=
  mapBase sel + my * Config.tileMapRowStride + mx

/-- The selector a bit of LCDC stands for (R78, `LCDC_SELECTOR_POLARITY` of R17). -/
def selectorOfBit (b : Bool) : TileSelector := if b = Config.set1Bit then .set1 else .set0

/-- The bit that stands for a selector. -/
def bitOfSelector : TileSelector → Bool
  | .set1 => Config.set1Bit
  | .set0 => !Config.set1Bit

/-- `LCDC.decode(b)`: each field from its bit in R78 (R79). -/
def LcdControl.decode (b : Byte) : LcdControl where
  lcdEnable := b.getLsbD 7
  windowTileMap := selectorOfBit (b.getLsbD 6)
  windowEnable := b.getLsbD 5
  bgwTileData := selectorOfBit (b.getLsbD 4)
  bgTileMap := selectorOfBit (b.getLsbD 3)
  spriteSize := if b.getLsbD 2 then .size8x16 else .size8x8
  spriteEnable := b.getLsbD 1
  bgEnable := b.getLsbD 0

/-- `LCDC.encode(x)`: each field back at its bit (R79). -/
def LcdControl.encode (x : LcdControl) : Byte :=
  BitVec.ofBool x.lcdEnable ++ BitVec.ofBool (bitOfSelector x.windowTileMap) ++
    BitVec.ofBool x.windowEnable ++ BitVec.ofBool (bitOfSelector x.bgwTileData) ++
    BitVec.ofBool (bitOfSelector x.bgTileMap) ++
    BitVec.ofBool (decide (x.spriteSize = .size8x16)) ++ BitVec.ofBool x.spriteEnable ++
    BitVec.ofBool x.bgEnable

end Sys2Proof.Machine
end

