-- ==== Sys2Proof/Machine/RegisterBank.lean ====
section
/-! DEFINITION. The register bank operations of 42_register_bank.md (R120 to R132). 0xFF42 is the
horizontal scroll and 0xFF43 the vertical one (90_conflicts.md C3). -/

namespace Sys2Proof.Machine

/-- READ_LCDC (R121). -/
def execReadLcdc (s : State) : Host.Outcome State Fault Refusal :=
  unlessFaulted s (answer (.data s.lcdc.encode) s)

/-- WRITE_LCDC (R122). -/
def execWriteLcdc (d : Byte) (s : State) : Host.Outcome State Fault Refusal :=
  unlessFaulted s (answer .ok { s with lcdc := LcdControl.decode d })

/-- READ_SCX (R123). -/
def execReadScx (s : State) : Host.Outcome State Fault Refusal :=
  unlessFaulted s (answer (.data s.pos.scrollX) s)

/-- WRITE_SCX (R124). -/
def execWriteScx (d : Byte) (s : State) : Host.Outcome State Fault Refusal :=
  unlessFaulted s (answer .ok { s with pos := { s.pos with scrollX := d } })

/-- READ_SCY (R125). -/
def execReadScy (s : State) : Host.Outcome State Fault Refusal :=
  unlessFaulted s (answer (.data s.pos.scrollY) s)

/-- WRITE_SCY (R126). -/
def execWriteScy (d : Byte) (s : State) : Host.Outcome State Fault Refusal :=
  unlessFaulted s (answer .ok { s with pos := { s.pos with scrollY := d } })

/-- READ_LY (R127): the live value. -/
def execReadLy (s : State) : Host.Outcome State Fault Refusal :=
  unlessFaulted s (answer (.data s.line) s)

/-- WRITE_LY (R128): the write "directly overwrites it". -/
def execWriteLy (d : Byte) (s : State) : Host.Outcome State Fault Refusal :=
  unlessFaulted s (answer .ok { s with line := d })

/-- READ_BGP (R129): "read fails (palette is documented write-only)". -/
def execReadBgp (s : State) : Host.Outcome State Fault Refusal :=
  unlessFaulted s (raiseError .writeToReadOnly 0xFF47#16 s)

/-- WRITE_BGP (R130): accepted; the byte is discarded. -/
def execWriteBgp (_d : Byte) (s : State) : Host.Outcome State Fault Refusal :=
  unlessFaulted s (answer .ok s)

/-- READ_UNMAPPED (R131). -/
def execReadUnmapped (a : Addr) (s : State) : Host.Outcome State Fault Refusal :=
  unlessFaulted s (raiseError .unmappedAddress a s)

/-- WRITE_UNMAPPED (R132): the byte is not stored. -/
def execWriteUnmapped (a : Addr) (_d : Byte) (s : State) : Host.Outcome State Fault Refusal :=
  unlessFaulted s (raiseError .unmappedAddress a s)

end Sys2Proof.Machine
end

