-- ==== Sys2Proof/Machine/PixelDecoder.lean ====
section
/-! DEFINITION. The pixel and tile decoder of 41_pixel_decoder.md (R110 to R113): pure functions of the
current `vram` contents. -/

namespace Sys2Proof.Machine

/-- Bit `i` of a byte as a number: `(v >> i) & 1`. -/
def bitAt (v : Byte) (i : Nat) : Nat := (v.toNat >>> i) % 2

/-- The colour ordinal of two plane bits: `lo + 2 * hi` (R83). -/
def ordinalOfBits (lo hi : Nat) : PixelColor := Fin.ofNat 4 (lo + 2 * hi)

/-- `decodeTilePixel(sel, t, p)` (R110): most significant bit first, `bit = 7 - col` (90_conflicts.md
C1). -/
def decodeTilePixel (vram : Memory) (sel : TileSelector) (t : Byte) (p : Nat) : PixelColor :=
  let base := tileBase sel t
  let row := p >>> 3
  let col := p % 8
  let lo := vram.read (base + row * 2)
  let hi := vram.read (base + row * 2 + 1)
  let bit := 7 - col
  ordinalOfBits (bitAt lo bit) (bitAt hi bit)

/-- One row of a tile: columns 0..7, column `c` taking bit `7 - c` of each plane (R111). -/
def decodeTileRow (lo hi : Byte) : List PixelColor :=
  (List.range 8).map fun c => ordinalOfBits (bitAt lo (7 - c)) (bitAt hi (7 - c))

/-- `decodeTile(sel, t)` (R111): 64 colours, row-major. -/
def decodeTile (vram : Memory) (sel : TileSelector) (t : Byte) : List PixelColor :=
  let base := tileBase sel t
  (List.range 8).flatMap fun r =>
    decodeTileRow (vram.read (base + 2 * r)) (vram.read (base + 2 * r + 1))

/-- `to_rgb(o)`: the fixed colour map of R86; no palette register takes part (R113). -/
def toRgb (o : PixelColor) : Rgb :=
  match o with
  | 0 => ⟨255, 255, 255⟩
  | 1 => ⟨192, 192, 192⟩
  | 2 => ⟨96, 96, 96⟩
  | 3 => ⟨0, 0, 0⟩

end Sys2Proof.Machine
end

