-- ==== Sys2Proof/Machine/Renderer.lean ====
section
/-! DEFINITION. The scanline renderer of 43_scanline_renderer.md (R140 to R147). -/

namespace Sys2Proof.Machine

/-- The column loop of R140 (R145): `n` columns left to do, the next one `column`; `x` is the column
within the tile, `xOff` the map column and `t` the tile index read there. -/
def renderColumns (vram : Memory) (map data : TileSelector) (yOff y start : Nat) :
    Nat → Nat → Nat → Nat → Byte → FrameBuffer → FrameBuffer
  | 0, _, _, _, _, fb => fb
  | n + 1, column, x, xOff, t, fb =>
    let fb := fb.write (start + column) (toRgb (decodeTilePixel vram data t (y * 8 + x)))
    if x + 1 = 8 then
      let xOff := (xOff + 1) % Config.mapColumns
      renderColumns vram map data yOff y start n (column + 1) 0 xOff
        (vram.read (mapEntryOffset map yOff xOff)) fb
    else renderColumns vram map data yOff y start n (column + 1) (x + 1) xOff t fb

/-- `renderScanline(s)` (R140): the frame buffer with row `line` rendered, or the fault of R146. -/
def renderScanline (s : State) : Except Fault FrameBuffer :=
  let line := s.line.toNat
  if Config.screenH ≤ line then .error .renderRowOutOfRange
  else
    let map := s.lcdc.bgTileMap
    let sum := line + s.pos.scrollY.toNat
    let yOff := (sum % 256) >>> 3
    let xOff := s.pos.scrollX.toNat >>> 3
    let t := s.vram.read (mapEntryOffset map yOff xOff)
    .ok (renderColumns s.vram map s.lcdc.bgwTileData yOff (sum % 8) (line * Config.screenW)
      Config.screenW 0 (s.pos.scrollX.toNat % 8) xOff t s.fb)

end Sys2Proof.Machine
end

