-- ==== Sys2Proof/Machine/Timing.lean ====
section
/-! DEFINITION. The timing state machine of 44_timing.md: ADVANCE (R150 to R156). -/

namespace Sys2Proof.Machine

/-- The cycle count that ends a mode, or one line of VBlank (R9, R22). -/
def threshold : Mode → Nat
  | .hblank => Config.tHblank
  | .vblank => Config.tVblankLine
  | .oamSearch => Config.tOam
  | .vramTransfer => Config.tVram

/-- OAMSearch ends: only `mode` and `cycle_counter` change (R152). -/
def endOamSearch (s : State) : Host.Outcome State Fault Refusal :=
  answer .ok (s.enterMode .vramTransfer)

/-- VRAMTransfer ends: the current line is rendered before the mode changes (R153). -/
def endVramTransfer (s : State) : Host.Outcome State Fault Refusal :=
  match renderScanline s with
  | .error k => raiseFault k s
  | .ok fb => answer .ok ({ s with fb := fb }.enterMode .hblank)

/-- HBlank ends: the test is on the line before the increment (R154); line 255 faults (R156). -/
def endHblank (s : State) : Host.Outcome State Fault Refusal :=
  if s.line.toNat = Config.vblankEntryLine then
    answer .ok ({ s with line := s.line + 1 }.setVblank.enterMode .vblank)
  else if s.line.toNat = 255 then raiseFault .lineCounterOverflow s
  else answer .ok ({ s with line := s.line + 1 }.enterMode .oamSearch)

/-- A line of VBlank ends: the increment is exact, and a line above 153 wraps to 0 (R155). -/
def endVblankLine (s : State) : Host.Outcome State Fault Refusal :=
  let n := s.line.toNat + 1
  if Config.lastLine < n then answer .ok ({ s with line := 0 }.enterMode .oamSearch)
  else answer .ok ({ s with line := BitVec.ofNat 8 n }.enterMode .vblank)

/-- ADVANCE (R150): the counter accumulates exactly; a mode ends when it reaches its threshold, and one
`advance` makes at most one transition (R151). -/
def execAdvance (delta : Nat) (s : State) : Host.Outcome State Fault Refusal :=
  unlessFaulted s
    (let cc := s.cycleCounter + delta
     if threshold s.mode ≤ cc then
       match s.mode with
       | .oamSearch => endOamSearch s
       | .vramTransfer => endVramTransfer s
       | .hblank => endHblank s
       | .vblank => endVblankLine s
     else answer .ok { s with cycleCounter := cc })

end Sys2Proof.Machine
end

