-- ==== Sys2Proof/Machine/VideoMemory.lean ====
section
/-! DEFINITION. The video memory store operations of 40_video_memory.md (R100 to R103). They work in
every mode (R58). -/

namespace Sys2Proof.Machine

/-- READ_VRAM (R100). -/
def execReadVram (a : Addr) (s : State) : Host.Outcome State Fault Refusal :=
  unlessFaulted s (readStore Config.vramSize s.vram (vramOffset a) s)

/-- WRITE_VRAM (R101). -/
def execWriteVram (a : Addr) (d : Byte) (s : State) : Host.Outcome State Fault Refusal :=
  unlessFaulted s
    (if vramOffset a < Config.vramSize then
      answer .ok { s with vram := s.vram.write (vramOffset a) d }
    else .refused .storeOffsetOutOfRange)

/-- READ_OAM (R102). -/
def execReadOam (a : Addr) (s : State) : Host.Outcome State Fault Refusal :=
  unlessFaulted s (readStore Config.oamSize s.oam (oamOffset a) s)

/-- WRITE_OAM (R103). -/
def execWriteOam (a : Addr) (d : Byte) (s : State) : Host.Outcome State Fault Refusal :=
  unlessFaulted s
    (if oamOffset a < Config.oamSize then
      answer .ok { s with oam := s.oam.write (oamOffset a) d }
    else .refused .storeOffsetOutOfRange)

end Sys2Proof.Machine
end

