-- ==== Sys2Proof/Machine/Dispatch.lean ====
section
/-! DEFINITION. The one match from transactions to their meanings. -/

namespace Sys2Proof.Machine

/-- The meaning of each transaction. -/
def exec (i : Instr) (s : State) : Host.Outcome State Fault Refusal :=
  match i with
  | .readVram a => Sys2Proof.Machine.execReadVram a s
  | .writeVram a d => Sys2Proof.Machine.execWriteVram a d s
  | .readOam a => Sys2Proof.Machine.execReadOam a s
  | .writeOam a d => Sys2Proof.Machine.execWriteOam a d s
  | .readLcdc => Sys2Proof.Machine.execReadLcdc s
  | .writeLcdc d => Sys2Proof.Machine.execWriteLcdc d s
  | .readScx => Sys2Proof.Machine.execReadScx s
  | .writeScx d => Sys2Proof.Machine.execWriteScx d s
  | .readScy => Sys2Proof.Machine.execReadScy s
  | .writeScy d => Sys2Proof.Machine.execWriteScy d s
  | .readLy => Sys2Proof.Machine.execReadLy s
  | .writeLy d => Sys2Proof.Machine.execWriteLy d s
  | .readBgp => Sys2Proof.Machine.execReadBgp s
  | .writeBgp d => Sys2Proof.Machine.execWriteBgp d s
  | .readUnmapped a => Sys2Proof.Machine.execReadUnmapped a s
  | .writeUnmapped a d => Sys2Proof.Machine.execWriteUnmapped a d s
  | .advance delta => Sys2Proof.Machine.execAdvance delta s
  | .readFrame => Sys2Proof.Machine.execReadFrame s

end Sys2Proof.Machine
end

