-- ==== Sys2Proof/Machine/Step.lean ====
section
/-! DEFINITION. One step: the caller's oldest pending command is decoded and carried out as one atomic
transaction (R59, R62). -/

namespace Sys2Proof.Machine

/-- One transaction. The decoder's verdict comes before everything else (R189). -/
def step (s : State) : Host.Outcome State Fault Refusal :=
  match fetch s with
  | none => idle s
  | some (w, rest) =>
    match decode w with
    | .error e => refuseCommand e (s.dropTo rest)
    | .ok i => exec i (s.dropTo rest)

/-- `s` with the command word of the low `nbits` bits of `w` put where `step` takes its next command
(log 1). -/
def State.withFetchWord (s : State) (nbits w : Nat) : State :=
  { s with pending := tableWord nbits w :: s.pending }

end Sys2Proof.Machine
end

