-- ==== Sys2Proof/Machine/Assembler.lean ====
section
/-! DEFINITION. The textual form of command words (30_encoding.md R88, R89). Spacing, number forms and
the case of register names, which R88 leaves open, are log 11. -/

namespace Sys2Proof.Machine

/-- One line of R88's table, or the pseudo-instruction of R89. -/
inductive AsmLine where
  | rd (a : Addr)
  | wr (a : Addr) (d : Byte)
  | adv (n : Nat)
  | frame
  | advline
deriving DecidableEq, Repr

/-- The command words of a line. `advline` "expands to the three lines `adv 80`, `adv 172`, `adv 204`" and
has no encoding of its own (R89). -/
def AsmLine.words : AsmLine → List Word
  | .rd a => [readWord a]
  | .wr a d => [writeWord a d]
  | .adv n => [advanceWord n]
  | .frame => [frameWord]
  | .advline => [advanceWord 80, advanceWord 172, advanceWord 204]

/-- The register names of R88. -/
def registerName : List Char → Option Addr
  | ['L', 'C', 'D', 'C'] => some 0xFF40#16
  | ['S', 'C', 'X'] => some 0xFF42#16
  | ['S', 'C', 'Y'] => some 0xFF43#16
  | ['L', 'Y'] => some 0xFF44#16
  | ['B', 'G', 'P'] => some 0xFF47#16
  | _ => none

/-- The value of a digit, 0 to 15. -/
def digitValue (c : Char) : Option Nat :=
  let n := c.toNat
  if 48 ≤ n ∧ n ≤ 57 then some (n - 48)
  else if 65 ≤ n ∧ n ≤ 70 then some (n - 55)
  else if 97 ≤ n ∧ n ≤ 102 then some (n - 87)
  else none

/-- The number of a run of digits, after `acc`. -/
def digitsFrom (base : Nat) : Nat → List Char → Option Nat
  | acc, [] => some acc
  | acc, c :: cs =>
    match digitValue c with
    | some v => if v < base then digitsFrom base (acc * base + v) cs else none
    | none => none

/-- A number: hexadecimal `0x..`, binary `0b..` (R12), or decimal. -/
def parseNumber : List Char → Option Nat
  | '0' :: 'x' :: c :: cs => digitsFrom 16 0 (c :: cs)
  | '0' :: 'b' :: c :: cs => digitsFrom 2 0 (c :: cs)
  | c :: cs => digitsFrom 10 0 (c :: cs)
  | [] => none

/-- A number below `bound`. -/
def parseBelow (bound : Nat) (cs : List Char) : Option Nat :=
  match parseNumber cs with
  | some n => if n < bound then some n else none
  | none => none

/-- "`A` is a 16-bit number or one of these register names" (R88). -/
def parseAddr (cs : List Char) : Option Addr :=
  match registerName cs with
  | some a => some a
  | none => (parseBelow (2 ^ 16) cs).map (BitVec.ofNat 16)

/-- The tokens of a line: runs of characters between spaces, and each comma by itself; `cur` is the run
being read, last character first. -/
def tokensFrom : List Char → List Char → List (List Char)
  | [], cur => if cur = [] then [] else [cur.reverse]
  | c :: cs, cur =>
    let done := if cur = [] then [] else [cur.reverse]
    if c = ' ' then done ++ tokensFrom cs []
    else if c = ',' then done ++ [[',']] ++ tokensFrom cs []
    else tokensFrom cs (c :: cur)

/-- A line of R88's table; "mnemonics are case-insensitive". -/
def parseLine (text : List Char) : Option AsmLine :=
  match tokensFrom text [] with
  | m :: operands =>
    match m.map Char.toLower, operands with
    | ['r', 'd'], [a] => (parseAddr a).map .rd
    | ['w', 'r'], [a, [','], d] =>
      match parseAddr a, parseBelow (2 ^ 8) d with
      | some a, some d => some (.wr a (BitVec.ofNat 8 d))
      | _, _ => none
    | ['a', 'd', 'v'], [n] => (parseBelow (2 ^ Config.deltaBits) n).map .adv
    | ['f', 'r', 'a', 'm', 'e'], [] => some .frame
    | ['a', 'd', 'v', 'l', 'i', 'n', 'e'], [] => some .advline
    | _, _ => none
  | [] => none

/-- The command words of one line of text. -/
def assembleLine (text : List Char) : Option (List Word) := (parseLine text).map AsmLine.words

/-- The command words of a text, line by line. -/
def assemble : List (List Char) → Option (List Word)
  | [] => some []
  | l :: ls =>
    match assembleLine l, assemble ls with
    | some ws, some rest => some (ws ++ rest)
    | _, _ => none

end Sys2Proof.Machine
end

