-- ==== Sys2Proof/Safety.lean ====
section
/-! DEFINITION. The terms claims are stated in: runs of transactions, the invariants of 10_state.md, and
the pixels of the background plane. -/

namespace Sys2Proof.Machine

/-- "`fault` is `none` in every state reached without a fault" (R34): what counts as a safe state. -/
def State.safe (s : State) : Prop := s.fault = none

/-- What every step keeps (R23, R26, R27, R28, R30, R134). -/
structure State.Inv (s : State) : Prop where
  /-- "Between transactions it always satisfies `cycle_counter < threshold(mode)`" (R23). -/
  counter_below : s.cycleCounter < threshold s.mode
  /-- The VRAM list is canonical and lists only offsets 0x0000..0x1FFF (R26). -/
  vram_wf : s.vram.wf Config.vramSize = true
  /-- The OAM list is canonical and lists only offsets 0x00..0x9F (R27). -/
  oam_wf : s.oam.wf Config.oamSize = true
  /-- The frame-buffer list is canonical and lists only elements 0..23039 (R28). -/
  fb_wf : s.fb.wf = true
  /-- "The five stored fields keep their reset value `false` for the whole session" (R30). -/
  stat_reset : s.stat = State.reset.stat
  /-- `window_y` keeps its reset value (R134). -/
  windowY_reset : s.pos.windowY = 0
  /-- `window_x` keeps its reset value (R134). -/
  windowX_reset : s.pos.windowX = 0

/-- What holds "while no caller write to 0xFF44" disturbs the line (R24, R185): VBlank has the lines
144..153, the other modes 0..143, and there is no fault. -/
structure State.LineInRange (s : State) : Prop where
  no_fault : s.fault = none
  vblank_line : s.mode = .vblank → 144 ≤ s.line.toNat ∧ s.line.toNat ≤ 153
  visible_line : s.mode ≠ .vblank → s.line.toNat ≤ 143

/-- The next command of `s`, if it has one, is not a write to LY. -/
def State.NextIsNotWriteLy (s : State) : Prop :=
  ∀ w rest d, s.pending = w :: rest → decode w ≠ .ok (.writeLy d)

/-- Transactions carried out in order, each taking effect completely before the next begins (R59). -/
def execAll : List Instr → State → Host.Outcome State Fault Refusal
  | [], s => .next s
  | i :: is, s =>
    match exec i s with
    | .next t => execAll is t
    | .fault k => .fault k
    | .refused r => .refused r

/-- The three advances of `advline` (R89). -/
def advlineInstrs : List Instr := [.advance 80, .advance 172, .advance 204]

/-- `n` times `advline`. -/
def advlines : Nat → List Instr
  | 0 => []
  | n + 1 => advlineInstrs ++ advlines n

/-- The transactions of one frame: 144 `advline`s and 10 `adv 456` (R159). -/
def frameInstrs : List Instr := advlines 144 ++ List.replicate 10 (.advance 456)

/-- The caller cycles that a list of transactions passes to the block. -/
def cyclesOf : List Instr → Nat
  | [] => 0
  | .advance delta :: is => delta + cyclesOf is
  | _ :: is => cyclesOf is

/-- The colour of column `x` of row `y` as the registers and `vram` stand: the pixel of the 256 x 256
background plane at column `(scroll_x + x) mod 256` and row `(y + scroll_y) mod 256` (R143 to R145). -/
def backgroundPixel (s : State) (y x : Nat) : Rgb :=
  let row := (y + s.pos.scrollY.toNat) % 256
  let col := (s.pos.scrollX.toNat + x) % 256
  let t := s.vram.read (mapBase s.lcdc.bgTileMap + row / 8 * 32 + col / 8)
  toRgb (decodeTilePixel s.vram s.lcdc.bgwTileData t (row % 8 * 8 + col % 8))

/-- The bus reads (R57): every READ transaction, the frame read apart. -/
def isBusRead : Instr → Bool
  | .readVram _ | .readOam _ | .readLcdc | .readScx | .readScy | .readLy | .readBgp
  | .readUnmapped _ => true
  | .writeVram _ _ | .writeOam _ _ | .writeLcdc _ | .writeScx _ | .writeScy _ | .writeLy _
  | .writeBgp _ | .writeUnmapped _ _ | .advance _ | .readFrame => false

/-- The bus writes: every WRITE transaction. -/
def isBusWrite : Instr → Bool
  | .writeVram _ _ | .writeOam _ _ | .writeLcdc _ | .writeScx _ | .writeScy _ | .writeLy _
  | .writeBgp _ | .writeUnmapped _ _ => true
  | .readVram _ | .readOam _ | .readLcdc | .readScx | .readScy | .readLy | .readBgp
  | .readUnmapped _ | .advance _ | .readFrame => false

end Sys2Proof.Machine
end

