-- ==== Sys2Proof/Certificates/Slice0/Obligations.lean ====
section
/-! DEFINITION. The statements of this row. In a next state, `result` is where the model holds what the
transaction returns to the caller, and `pending` the commands the caller has still to be served
(logs 1 and 2): both are the model's way to hold the interface, and the values are the spec's. -/

open Sys2Proof Sys2Proof.Machine

/-! ### Reset, stepping and the command words -/

/-- R35: the reset value of every element of the state. Rests on the spec's decisions D12 (frame buffer),
D13 (flag) and D25 (fault). -/
def Obligations.ResetLeavesTheStatedValues : Prop :=
  State.reset.mode = .hblank ∧ State.reset.cycleCounter = 0 ∧ State.reset.line = 0 ∧
    State.reset.vblankPending = false ∧
    (∀ off, State.reset.vram.read off = 0) ∧ (∀ off, State.reset.oam.read off = 0) ∧
    State.reset.lcdc = LcdControl.decode 0x00#8 ∧
    State.reset.lcdc =
      { lcdEnable := false, windowTileMap := .set0, windowEnable := false, bgwTileData := .set0,
        bgTileMap := .set0, spriteSize := .size8x8, spriteEnable := false, bgEnable := false } ∧
    State.reset.stat =
      { ieCoincidence := false, ieOam := false, ieVblank := false, ieHblank := false,
        coincidence := false } ∧
    State.reset.pos = { scrollX := 0, scrollY := 0, windowY := 0, windowX := 0 } ∧
    (∀ i, State.reset.fb.read i = ⟨0, 0, 0⟩) ∧ State.reset.fault = none

/-- A step carries out the decoded command, with that command taken off the pending ones; a step with
nothing pending changes nothing (the model's own queue: logs 1 and 3). Rests on the spec's decision D1.
-/
def Obligations.StepRunsTheDecodedCommand : Prop :=
  (∀ (s : State) (w : Word) (rest : List Word) (i : Instr), s.pending = w :: rest →
    decode w = .ok i → step s = exec i { s with pending := rest }) ∧
  (∀ s : State, s.pending = [] → step s = .next s)

/-- A reserved word is answered with the verdict `IllegalCommand` and changes nothing, in a faulted state
too; that the machine goes on with the caller's next command is the model's reading (log 4). Rests on the
spec's decisions D26 and D31. -/
def Obligations.ReservedWordAnswersIllegalCommand : Prop :=
  ∀ (s : State) (w : Word) (rest : List Word), s.pending = w :: rest →
    decode w = .error .illegalCommand →
    step s = .next { s with pending := rest, result := some .illegalCommand }

/-- R76's list: the decoder refuses a word in exactly these cases. Rests on the spec's decisions D2 and
D26. -/
def Obligations.ReservedWordsAreExactlyThese : Prop :=
  ∀ w : Word, decode w = .error .illegalCommand ↔
    ((w.extractLsb' 30 2 = 0b00#2 ∨ w.extractLsb' 30 2 = 0b01#2) ∧ w.extractLsb' 24 6 ≠ 0#6) ∨
      (w.extractLsb' 30 2 = 0b00#2 ∧ w.extractLsb' 0 8 ≠ 0#8) ∨
      (w.extractLsb' 30 2 = 0b11#2 ∧ w.extractLsb' 0 30 ≠ 0#30)

/-- Decoding the encoded word of a well-formed transaction gives the transaction back. Rests on the
spec's decisions D2 and D9. -/
def Obligations.DecodeOfEncodeIsTheTransaction : Prop :=
  ∀ i : Instr, i.wellFormed = true → decode (encode i) = .ok i

/-- Each legal word has one meaning: encoding what it decodes to gives the word back, and what it decodes
to is well-formed. Rests on the spec's decisions D2 and D9. -/
def Obligations.EncodeOfDecodeIsTheWord : Prop :=
  ∀ (w : Word) (i : Instr), decode w = .ok i → i.wellFormed = true ∧ encode i = w

/-- The decoded transaction's row of spec/opcode_table.json matches the word. Rests on the spec's
decision D2. -/
def Obligations.DecodedWordMatchesItsOpcodeRow : Prop :=
  ∀ (w : Word) (i : Instr), decode w = .ok i → w &&& rowMask i = rowMatch i

/-- R77: the address selects the transaction of a READ or WRITE word. The ADVANCE and FRAME words are R72's and
R75's. Rests on the spec's decisions D2 and D9. -/
def Obligations.AddressSelectsTheTransaction : Prop :=
  (∀ (a : Addr) (d : Byte),
    (decode (readWord a), decode (writeWord a d)) =
      if 0x8000 ≤ a.toNat ∧ a.toNat ≤ 0x9FFF then (.ok (.readVram a), .ok (.writeVram a d))
      else if 0xFE00 ≤ a.toNat ∧ a.toNat ≤ 0xFE9F then (.ok (.readOam a), .ok (.writeOam a d))
      else if a.toNat = 0xFF40 then (.ok .readLcdc, .ok (.writeLcdc d))
      else if a.toNat = 0xFF42 then (.ok .readScx, .ok (.writeScx d))
      else if a.toNat = 0xFF43 then (.ok .readScy, .ok (.writeScy d))
      else if a.toNat = 0xFF44 then (.ok .readLy, .ok (.writeLy d))
      else if a.toNat = 0xFF47 then (.ok .readBgp, .ok (.writeBgp d))
      else (.ok (.readUnmapped a), .ok (.writeUnmapped a d))) ∧
  (∀ n < 2 ^ 30, decode (advanceWord n) = .ok (.advance n)) ∧
  decode 0xC0000000#32 = .ok .readFrame

/-- Words of 95_test_vectors.md 2.1 and 2.2, written out. Rests on the spec's decision D2. -/
def Obligations.WrittenOutWordsDecode : Prop :=
  decode 0x00809A00#32 = .ok (.readVram 0x809A#16) ∧
    decode 0x408000AB#32 = .ok (.writeVram 0x8000#16 0xAB#8) ∧
    decode 0x00FE9F00#32 = .ok (.readOam 0xFE9F#16) ∧
    decode 0x40FE0011#32 = .ok (.writeOam 0xFE00#16 0x11#8) ∧
    decode 0x40FF4091#32 = .ok (.writeLcdc 0x91#8) ∧
    decode 0x00FF4400#32 = .ok .readLy ∧
    decode 0x00FF4100#32 = .ok (.readUnmapped 0xFF41#16) ∧
    decode 0x00FF4001#32 = .error .illegalCommand ∧
    decode 0x800000CC#32 = .ok (.advance 204) ∧
    decode 0xC0000000#32 = .ok .readFrame

/-! ### Video memory -/

/-- R100: READ_VRAM answers the byte at `A - 0x8000` and changes nothing, in every mode. -/
def Obligations.ReadVramReturnsTheStoredByte : Prop :=
  ∀ a : Addr, 0x8000 ≤ a.toNat → a.toNat ≤ 0x9FFF →
    decode (readWord a) = .ok (.readVram a) ∧ readWord a &&& 0xFFE000FF#32 = 0x00800000#32 ∧
    ∀ s : State, s.fault = none →
      exec (.readVram a) s =
        .next { s with result := some (.data (s.vram.read (a.toNat - 0x8000))) }

/-- R101: WRITE_VRAM stores the byte at `A - 0x8000`; every other VRAM byte reads as before and nothing
else changes, in every mode. -/
def Obligations.WriteVramStoresTheByte : Prop :=
  ∀ (a : Addr) (d : Byte), 0x8000 ≤ a.toNat → a.toNat ≤ 0x9FFF →
    decode (writeWord a d) = .ok (.writeVram a d) ∧
    writeWord a d &&& 0xFFE00000#32 = 0x40800000#32 ∧
    ∀ s : State, s.fault = none →
      ∃ t, exec (.writeVram a d) s = .next t ∧
        t = { s with vram := t.vram, result := some .ok } ∧
        t.vram.read (vramOffset a) = d ∧ vramOffset a = a.toNat - 0x8000 ∧
        ∀ off, off ≠ vramOffset a → t.vram.read off = s.vram.read off

/-- R102: READ_OAM answers the byte at `A - 0xFE00` and changes nothing; an address past the window
decodes to READ_UNMAPPED. Rests on the spec's decision D21 (0xFEA0..0xFEFF). -/
def Obligations.ReadOamReturnsTheStoredByte : Prop :=
  (∀ a : Addr, 0xFE00 ≤ a.toNat → a.toNat ≤ 0xFE9F →
    decode (readWord a) = .ok (.readOam a) ∧ readWord a &&& 0xFFFF00FF#32 = 0x00FE0000#32 ∧
    ∀ s : State, s.fault = none →
      exec (.readOam a) s =
        .next { s with result := some (.data (s.oam.read (a.toNat - 0xFE00))) }) ∧
  (∀ a : Addr, 0xFEA0 ≤ a.toNat → a.toNat ≤ 0xFEFF → decode (readWord a) = .ok (.readUnmapped a))

/-- R103: WRITE_OAM stores the byte at `A - 0xFE00`; every other OAM byte reads as before and nothing
else changes; an address past the window decodes to WRITE_UNMAPPED. Rests on the spec's decision D21
(0xFEA0..0xFEFF). -/
def Obligations.WriteOamStoresTheByte : Prop :=
  (∀ (a : Addr) (d : Byte), 0xFE00 ≤ a.toNat → a.toNat ≤ 0xFE9F →
    decode (writeWord a d) = .ok (.writeOam a d) ∧
    writeWord a d &&& 0xFFFF0000#32 = 0x40FE0000#32 ∧
    ∀ s : State, s.fault = none →
      ∃ t, exec (.writeOam a d) s = .next t ∧
        t = { s with oam := t.oam, result := some .ok } ∧
        t.oam.read (oamOffset a) = d ∧ oamOffset a = a.toNat - 0xFE00 ∧
        ∀ off, off ≠ oamOffset a → t.oam.read off = s.oam.read off) ∧
  (∀ (a : Addr) (d : Byte), 0xFEA0 ≤ a.toNat → a.toNat ≤ 0xFEFF →
    decode (writeWord a d) = .ok (.writeUnmapped a d))

/-- An offset outside its store is refused by name: a caller contract violation that no command word
reaches (R53, log 7). -/
def Obligations.OffsetOutsideItsStoreIsRefused : Prop :=
  ∀ (s : State) (a : Addr) (d : Byte), s.fault = none →
    (inVramWindow a = false →
      exec (.readVram a) s = .refused .storeOffsetOutOfRange ∧
        exec (.writeVram a d) s = .refused .storeOffsetOutOfRange) ∧
    (inOamWindow a = false →
      exec (.readOam a) s = .refused .storeOffsetOutOfRange ∧
        exec (.writeOam a d) s = .refused .storeOffsetOutOfRange)

/-! ### Register bank -/

/-- R121 and R122: LCDC reads back the last byte written, or 0x00 after reset; a write sets all eight
fields. Rests on the spec's decision D4 (which bit value selects Set1). -/
def Obligations.LcdcReadsAndWritesItsFields : Prop :=
  decode 0x00FF4000#32 = .ok .readLcdc ∧
  (∀ d : Byte, decode (0x40FF40#24 ++ d) = .ok (.writeLcdc d)) ∧
  (∀ s : State, s.fault = none →
    exec .readLcdc s = .next { s with result := some (.data s.lcdc.encode) }) ∧
  (∀ (s : State) (d : Byte), s.fault = none →
    ∃ t, exec (.writeLcdc d) s = .next t ∧
      t = { s with
        lcdc :=
          { lcdEnable := d.getLsbD 7,
            windowTileMap := if d.getLsbD 6 then .set1 else .set0,
            windowEnable := d.getLsbD 5,
            bgwTileData := if d.getLsbD 4 then .set1 else .set0,
            bgTileMap := if d.getLsbD 3 then .set1 else .set0,
            spriteSize := if d.getLsbD 2 then .size8x16 else .size8x8,
            spriteEnable := d.getLsbD 1,
            bgEnable := d.getLsbD 0 },
        result := some .ok } ∧
      exec .readLcdc t = .next { t with result := some (.data d) }) ∧
  exec .readLcdc State.reset = .next { State.reset with result := some (.data 0x00#8) }

/-- R123 to R126: 0xFF42 is the horizontal scroll and 0xFF43 the vertical one; both read back the stored
byte, and a write changes only its own byte. Rests on the spec's decision D28. -/
def Obligations.ScrollRegistersReadAndWrite : Prop :=
  decode 0x00FF4200#32 = .ok .readScx ∧ decode 0x00FF4300#32 = .ok .readScy ∧
  (∀ d : Byte, decode (0x40FF42#24 ++ d) = .ok (.writeScx d) ∧
    decode (0x40FF43#24 ++ d) = .ok (.writeScy d)) ∧
  (∀ (s : State) (d : Byte), s.fault = none →
    exec .readScx s = .next { s with result := some (.data s.pos.scrollX) } ∧
    exec .readScy s = .next { s with result := some (.data s.pos.scrollY) } ∧
    exec (.writeScx d) s =
      .next { s with pos := { s.pos with scrollX := d }, result := some .ok } ∧
    exec (.writeScy d) s =
      .next { s with pos := { s.pos with scrollY := d }, result := some .ok })

/-- R127 and R128: LY reads the live line; a write overwrites it and changes nothing else. Rests on the
spec's decision D10 (any byte can be stored). -/
def Obligations.LyReadsAndOverwritesTheLine : Prop :=
  decode 0x00FF4400#32 = .ok .readLy ∧
  (∀ d : Byte, decode (0x40FF44#24 ++ d) = .ok (.writeLy d)) ∧
  (∀ (s : State) (d : Byte), s.fault = none →
    exec .readLy s = .next { s with result := some (.data s.line) } ∧
    exec (.writeLy d) s = .next { s with line := d, result := some .ok })

/-- R129 and R130: a read of BGP is the error `WriteToReadOnly`; a write is accepted and discarded. Rests
on the spec's decision D17. -/
def Obligations.BgpReadFailsAndWriteIsDiscarded : Prop :=
  decode 0x00FF4700#32 = .ok .readBgp ∧
  (∀ d : Byte, decode (0x40FF47#24 ++ d) = .ok (.writeBgp d)) ∧
  (∀ (s : State) (d : Byte), s.fault = none →
    exec .readBgp s = .next { s with result := some (.error .writeToReadOnly 0xFF47#16) } ∧
    exec (.writeBgp d) s = .next { s with result := some .ok })

/-- R131 and R132: an address outside every window is the error `UnmappedAddress`, for a read and for a
write, and nothing changes; the recorded address is R181's `info`. Rests on the spec's decision D21 (addresses
that are no register addresses). -/
def Obligations.UnmappedAccessIsAnError : Prop :=
  ∀ (a : Addr) (d : Byte), isUnmapped a = true →
    decode (readWord a) = .ok (.readUnmapped a) ∧
    decode (writeWord a d) = .ok (.writeUnmapped a d) ∧
    readWord a &&& 0xFF0000FF#32 = 0x00000000#32 ∧
    writeWord a d &&& 0xFF000000#32 = 0x40000000#32 ∧
    ∀ s : State, s.fault = none →
      exec (.readUnmapped a) s = .next { s with result := some (.error .unmappedAddress a) } ∧
      exec (.writeUnmapped a d) s = .next { s with result := some (.error .unmappedAddress a) }

/-- R78 and R79: each LCDC field at its bit, and the codec a bijection. Rests on the spec's decision D4.
-/
def Obligations.LcdcCodecIsABijection : Prop :=
  (∀ b : Byte, (LcdControl.decode b).encode = b) ∧
  (∀ x : LcdControl, LcdControl.decode x.encode = x) ∧
  (∀ b : Byte, LcdControl.decode b =
    { lcdEnable := b.getLsbD 7,
      windowTileMap := if b.getLsbD 6 then .set1 else .set0,
      windowEnable := b.getLsbD 5,
      bgwTileData := if b.getLsbD 4 then .set1 else .set0,
      bgTileMap := if b.getLsbD 3 then .set1 else .set0,
      spriteSize := if b.getLsbD 2 then .size8x16 else .size8x8,
      spriteEnable := b.getLsbD 1,
      bgEnable := b.getLsbD 0 })

/-- R80, R81 and R133: the STAT byte's bits, its round trip, and the STAT view of a state whose stored
fields are at reset. Rests on the spec's decision D16. -/
def Obligations.StatCodecMirrorsTheMode : Prop :=
  (∀ (x : LcdStatus) (m : Mode),
    let b := x.encode m
    b.getLsbD 7 = false ∧ b.getLsbD 6 = x.ieCoincidence ∧ b.getLsbD 5 = x.ieOam ∧
      b.getLsbD 4 = x.ieVblank ∧ b.getLsbD 3 = x.ieHblank ∧ b.getLsbD 2 = x.coincidence ∧
      b.toNat % 4 =
        match m with
        | .hblank => 0
        | .vblank => 1
        | .oamSearch => 2
        | .vramTransfer => 3) ∧
  (∀ b : Byte,
    (LcdStatus.decode b).1.encode (LcdStatus.decode b).2 = b &&& 0x7B#8 ∧
    (LcdStatus.decode b).1.coincidence = false ∧
    (LcdStatus.decode b).1.ieCoincidence = b.getLsbD 6 ∧
    (LcdStatus.decode b).1.ieOam = b.getLsbD 5 ∧
    (LcdStatus.decode b).1.ieVblank = b.getLsbD 4 ∧
    (LcdStatus.decode b).1.ieHblank = b.getLsbD 3 ∧
    (LcdStatus.decode b).2.ord = b.extractLsb' 0 2) ∧
  (∀ s : State, s.Inv →
    s.statByte =
      match s.mode with
      | .hblank => 0x00#8
      | .vblank => 0x01#8
      | .oamSearch => 0x02#8
      | .vramTransfer => 0x03#8)

/-! ### Pixel decoder and renderer -/

/-- R83 and R84: the ordinal of the pixel at row `r` and column `c` of tile `t` is the low plane's bit `7
- c` plus twice the high plane's; Set1 tile `t` is Set0 tile `t + 128`. Rests on the spec's decisions D6
and D29. -/
def Obligations.PixelOrdinalIsItsPlaneBits : Prop :=
  (∀ (vram : Memory) (sel : TileSelector) (t : Byte) (r c : Nat), r < 8 → c < 8 →
    let base := (if sel = .set1 then 0x800 else 0) + t.toNat * 16
    (decodeTilePixel vram sel t (r * 8 + c)).val =
      ((vram.read (base + 2 * r)).getLsbD (7 - c)).toNat +
        2 * ((vram.read (base + 2 * r + 1)).getLsbD (7 - c)).toNat) ∧
  (∀ t : Byte,
    tileBase .set0 t + 15 ≤ 0x0FFF ∧ 0x0800 ≤ tileBase .set1 t ∧ tileBase .set1 t + 15 ≤ 0x17FF ∧
    (t.toNat < 128 → tileBase .set1 t = tileBase .set0 (t + 128#8)))

/-- R112: the pixel decoder and the tile decoder agree at every pixel. Rests on the spec's decision D6,
and on the spec's own derivation in R112. -/
def Obligations.PixelAndTileDecodersAgree : Prop :=
  ∀ (vram : Memory) (sel : TileSelector) (t : Byte),
    (decodeTile vram sel t).length = 64 ∧
    ∀ p < 64, (decodeTile vram sel t)[p]? = some (decodeTilePixel vram sel t p)

/-- R86: the fixed colour map, a bijection onto its four triples. -/
def Obligations.ColourMapIsFixed : Prop :=
  toRgb 0 = ⟨255, 255, 255⟩ ∧ toRgb 1 = ⟨192, 192, 192⟩ ∧ toRgb 2 = ⟨96, 96, 96⟩ ∧
    toRgb 3 = ⟨0, 0, 0⟩ ∧ ∀ o o' : PixelColor, toRgb o = toRgb o' → o = o'

/-- The renderer's loop draws the background plane: after a render of a visible line, column `x` of its
row is the plane's pixel, with scroll, vertical wrap and horizontal wrap; every other element of the
frame buffer is as before. Rests on the spec's decisions D5, D6 and D29. -/
def Obligations.RenderDrawsTheBackgroundRow : Prop :=
  ∀ s : State, s.line.toNat ≤ 143 →
    ∃ fb, renderScanline s = .ok fb ∧
      (∀ x < 160, fb.read (s.line.toNat * 160 + x) = backgroundPixel s s.line.toNat x) ∧
      (∀ i, i < s.line.toNat * 160 ∨ s.line.toNat * 160 + 160 ≤ i → fb.read i = s.fb.read i)

/-- The renderer reads its six inputs only: states that agree on them render the same row, or fault
alike. Rests on the spec's decision D14, and on the spec's own derivation in R141. -/
def Obligations.RendererReadsOnlyItsInputs : Prop :=
  ∀ s s' : State, s'.line = s.line → s'.pos.scrollX = s.pos.scrollX →
    s'.pos.scrollY = s.pos.scrollY → s'.lcdc.bgTileMap = s.lcdc.bgTileMap →
    s'.lcdc.bgwTileData = s.lcdc.bgwTileData → s'.vram = s.vram →
    (∀ k, renderScanline s = .error k ↔ renderScanline s' = .error k) ∧
    (∀ fb, renderScanline s = .ok fb →
      ∃ fb', renderScanline s' = .ok fb' ∧
        ∀ x < 160, fb'.read (s.line.toNat * 160 + x) = fb.read (s.line.toNat * 160 + x))

/-! ### Timing -/

/-- R152: OAMSearch ends at 80 cycles and changes only the mode and the counter. Rests on the spec's decision
D8 (the count reaches or passes the threshold; the counter restarts at 0). -/
def Obligations.OamSearchEndsAt80 : Prop :=
  ∀ (s : State) (delta : Nat), s.fault = none → s.mode = .oamSearch →
    80 ≤ s.cycleCounter + delta →
    exec (.advance delta) s =
      .next { s with mode := .vramTransfer, cycleCounter := 0, result := some .ok }

/-- R153: VRAMTransfer ends at 172 cycles; the current line is rendered and HBlank begins. Rests on
the spec's decision D8 (the count reaches or passes the threshold; the counter restarts at 0). -/
def Obligations.VramTransferEndsAt172 : Prop :=
  ∀ (s : State) (delta : Nat), s.fault = none → s.mode = .vramTransfer →
    172 ≤ s.cycleCounter + delta → s.line.toNat ≤ 143 →
    ∃ fb, renderScanline s = .ok fb ∧
      exec (.advance delta) s =
        .next { s with mode := .hblank, cycleCounter := 0, fb := fb, result := some .ok }

/-- R154: HBlank ends at 204 cycles; line 143 leads to VBlank with the flag set, any other line to
OAMSearch on the next line. Rests on the spec's decisions D7 and D8. -/
def Obligations.HblankEndsAt204 : Prop :=
  ∀ (s : State) (delta : Nat), s.fault = none → s.mode = .hblank → 204 ≤ s.cycleCounter + delta →
    (s.line = 143#8 →
      exec (.advance delta) s =
        .next { s with mode := .vblank, cycleCounter := 0, line := 144#8, vblankPending := true,
                       result := some .ok }) ∧
    (s.line ≠ 143#8 → s.line ≠ 255#8 →
      exec (.advance delta) s =
        .next { s with mode := .oamSearch, cycleCounter := 0, line := s.line + 1#8,
                       result := some .ok })

/-- R155: a VBlank line ends at 456 cycles; a line above 153 wraps to 0 and OAMSearch begins, otherwise
VBlank goes on with the counter at 0. Rests on the spec's decisions D8 and D10. -/
def Obligations.VblankLineEndsAt456 : Prop :=
  ∀ (s : State) (delta : Nat), s.fault = none → s.mode = .vblank → 456 ≤ s.cycleCounter + delta →
    (s.line.toNat + 1 ≤ 153 →
      exec (.advance delta) s =
        .next { s with cycleCounter := 0, line := s.line + 1#8, result := some .ok }) ∧
    (153 < s.line.toNat + 1 →
      exec (.advance delta) s =
        .next { s with mode := .oamSearch, cycleCounter := 0, line := 0#8, result := some .ok })

/-- Below the threshold the counter takes the delta and nothing else changes. Rests on the spec's
decisions D8 and D9. -/
def Obligations.BelowTheThresholdOnlyTheCounterMoves : Prop :=
  ∀ (s : State) (delta : Nat), s.fault = none →
    s.cycleCounter + delta <
      (match s.mode with
        | .hblank => 204
        | .vblank => 456
        | .oamSearch => 80
        | .vramTransfer => 172) →
    exec (.advance delta) s =
      .next { s with cycleCounter := s.cycleCounter + delta, result := some .ok }

/-- R156's first three cases: what an out-of-range line does at the end of HBlank and VRAMTransfer. Rests
on the spec's decisions D10 and D25. -/
def Obligations.OutOfRangeLinesFault : Prop :=
  ∀ (s : State) (delta : Nat), s.fault = none →
    (s.mode = .hblank → 204 ≤ s.cycleCounter + delta → s.line = 255#8 →
      exec (.advance delta) s =
        .next { s with fault := some .lineCounterOverflow,
                       result := some (.fault .lineCounterOverflow) }) ∧
    (s.mode = .vramTransfer → 172 ≤ s.cycleCounter + delta → 144 ≤ s.line.toNat →
      renderScanline s = .error .renderRowOutOfRange ∧
      exec (.advance delta) s =
        .next { s with fault := some .renderRowOutOfRange,
                       result := some (.fault .renderRowOutOfRange) }) ∧
    (s.mode = .hblank → 204 ≤ s.cycleCounter + delta → 144 ≤ s.line.toNat →
      s.line.toNat ≤ 254 →
      exec (.advance delta) s =
        .next { s with mode := .oamSearch, cycleCounter := 0, line := s.line + 1#8,
                       result := some .ok })

/-- R156's last case: once the line has skipped 143 outside VBlank, no step but a write to LY brings it
back, enters VBlank or sets the flag. Rests on the spec's decision D10. -/
def Obligations.LineBeyond143NeverEntersVblank : Prop :=
  ∀ s t : State, s.mode ≠ .vblank → 144 ≤ s.line.toNat → s.NextIsNotWriteLy → step s = .next t →
    t.mode ≠ .vblank ∧ 144 ≤ t.line.toNat ∧ (t.vblankPending = true → s.vblankPending = true)

/-- ADVANCE always answers a next state from a state without a fault; it faults in exactly the two cases
of R185, and then changes nothing but the fault element. Rests on the spec's decisions D10 and D25. -/
def Obligations.AdvanceFaultsExactlyInTheTwoCases : Prop :=
  ∀ (s : State) (delta : Nat), s.fault = none →
    ∃ t, exec (.advance delta) s = .next t ∧
      ∀ k, (t.fault = some k ↔
        (k = .renderRowOutOfRange ∧ s.mode = .vramTransfer ∧ 172 ≤ s.cycleCounter + delta ∧
          144 ≤ s.line.toNat) ∨
        (k = .lineCounterOverflow ∧ s.mode = .hblank ∧ 204 ≤ s.cycleCounter + delta ∧
          s.line.toNat = 255)) ∧
      (t.fault = some k → t = { s with fault := some k, result := some (.fault k) })

/-- R151: however large the delta, an `advance` that reaches the threshold does what the smallest delta
that reaches it does, and leaves the counter at 0; the mode is the old one or its successor. Rests on the
spec's decision D8. -/
def Obligations.SurplusCyclesAreLost : Prop :=
  ∀ (s : State) (delta : Nat), s.fault = none → s.cycleCounter < threshold s.mode →
    threshold s.mode ≤ s.cycleCounter + delta →
    exec (.advance delta) s = exec (.advance (threshold s.mode - s.cycleCounter)) s ∧
    ∀ t, exec (.advance delta) s = .next t → t.fault = none →
      t.cycleCounter = 0 ∧
      ((s.mode, t.mode) ∈
        [(Mode.oamSearch, Mode.vramTransfer), (.vramTransfer, .hblank), (.hblank, .oamSearch),
          (.hblank, .vblank), (.vblank, .vblank), (.vblank, .oamSearch)])

/-- Deltas whose sum stays below the threshold add up in the counter; the first delta that reaches it
ends the mode as the whole sum would. Rests on the spec's decision D8, and on the spec's own derivation
in R160. -/
def Obligations.DeltasAddUpToTheThreshold : Prop :=
  ∀ (s : State) (deltas : List Nat), s.fault = none →
    s.cycleCounter + deltas.sum < threshold s.mode →
    ∃ t, execAll (deltas.map Instr.advance) s = .next t ∧
      t = { s with cycleCounter := s.cycleCounter + deltas.sum, result := t.result } ∧
      ∀ delta u, threshold s.mode ≤ s.cycleCounter + deltas.sum + delta →
        exec (.advance delta) t = .next u → u.fault = none →
        exec (.advance (s.cycleCounter + deltas.sum + delta)) { s with cycleCounter := 0 } = .next u

/-- R158: from OAMSearch at line L with counter 0, `advline` renders row L and ends in OAMSearch at line
L + 1, or in VBlank at line 144 with the flag set when L is 143. Rests on the spec's decisions D3 and D7,
and on the spec's own derivation in R158. -/
def Obligations.AdvlineRendersOneVisibleLine : Prop :=
  ∀ s : State, s.fault = none → s.mode = .oamSearch → s.cycleCounter = 0 → s.line.toNat ≤ 143 →
    ∃ fb, renderScanline s = .ok fb ∧
      execAll [.advance 80, .advance 172, .advance 204] s =
        .next
          (if s.line.toNat < 143 then
            { s with line := s.line + 1#8, fb := fb, result := some .ok }
          else
            { s with mode := .vblank, line := 144#8, vblankPending := true, fb := fb,
                     result := some .ok })

/-- R159: a frame from OAMSearch at line 0 passes through OAMSearch, VRAMTransfer and HBlank of lines
0..143 and VBlank of lines 144..153, back to line 0: 442 transitions, 70224 cycles, the flag set at
VBlank entry. Rests on the spec's decisions D3, D7 and D8, and on the spec's own derivation in R159. -/
def Obligations.FrameVisitsEveryLine : Prop :=
  frameInstrs.length = 442 ∧ cyclesOf frameInstrs = 70224 ∧
  ∀ (s : State) (n : Nat), s.fault = none → s.mode = .oamSearch → s.cycleCounter = 0 →
    s.line = 0#8 → n ≤ 442 →
    ∃ t, execAll (frameInstrs.take n) s = .next t ∧ t.fault = none ∧ t.cycleCounter = 0 ∧
      t.vblankPending = (s.vblankPending || decide (432 ≤ n)) ∧
      (n < 432 → t.line.toNat = n / 3 ∧
        t.mode = if n % 3 = 0 then .oamSearch else if n % 3 = 1 then .vramTransfer else .hblank) ∧
      (432 ≤ n → n < 442 → t.line.toNat = 144 + (n - 432) ∧ t.mode = .vblank) ∧
      (n = 442 → t.line = 0#8 ∧ t.mode = .oamSearch)

/-- A whole frame draws the background plane in all 144 rows, and changes no memory and no register.
Rests on the spec's decisions D5, D6, D7 and D29. -/
def Obligations.FrameDrawsTheWholeBackground : Prop :=
  ∀ s : State, s.fault = none → s.mode = .oamSearch → s.cycleCounter = 0 → s.line = 0#8 →
    ∃ t, execAll frameInstrs s = .next t ∧
      (∀ y < 144, ∀ x < 160, t.fb.read (y * 160 + x) = backgroundPixel s y x) ∧
      t = { s with vblankPending := true, fb := t.fb, result := some .ok }

/-- The first frame after reset skips line 0: its row stays at the reset value, VBlank comes after 65412
cycles, and line 0 after 69972. Rests on the spec's decisions D7 and D12, and on the spec's own
derivation in R202. -/
def Obligations.FirstFrameAfterResetSkipsRowZero : Prop :=
  cyclesOf (.advance 204 :: advlines 143) = 65412 ∧
  cyclesOf (.advance 204 :: advlines 143 ++ List.replicate 10 (.advance 456)) = 69972 ∧
  ∃ t u, execAll (.advance 204 :: advlines 143) State.reset = .next t ∧
    t.mode = .vblank ∧ t.cycleCounter = 0 ∧ t.line = 144#8 ∧ t.vblankPending = true ∧
    execAll (List.replicate 10 (.advance 456)) t = .next u ∧
    u.mode = .oamSearch ∧ u.cycleCounter = 0 ∧ u.line = 0#8 ∧
    (∀ x < 160, u.fb.read x = ⟨0, 0, 0⟩) ∧
    (∀ y, 1 ≤ y → y < 144 → ∀ x < 160, u.fb.read (y * 160 + x) = ⟨255, 255, 255⟩)

/-! ### Frame read, faults and errors -/

/-- R170 and R172: the frame read answers a copy of the frame buffer and clears the flag; with the flag
clear it changes no element of the state. Rests on the spec's decision D18. -/
def Obligations.ReadFrameAnswersTheFrameAndClearsTheFlag : Prop :=
  decode 0xC0000000#32 = .ok .readFrame ∧
  (∀ s : State, s.fault = none →
    exec .readFrame s =
      .next { s with vblankPending := false, result := some (.frame s.fb) }) ∧
  (∀ s : State, s.fault = none → s.vblankPending = false →
    exec .readFrame s = .next { s with result := some (.frame s.fb) })

/-- R184: in the faulted state every transaction answers `Faulted` and changes nothing. Rests on the
spec's decisions D25 and D31. -/
def Obligations.FaultedBlockAnswersFaulted : Prop :=
  ∀ (s : State) (i : Instr) (k : Fault), s.fault = some k →
    exec i s = .next { s with result := some (.faulted k) }

/-- R34 and R184: no step clears or changes a fault, and a faulted state keeps every element of the
block. Rests on the spec's decision D25. -/
def Obligations.FaultIsNeverCleared : Prop :=
  ∀ (s t : State) (k : Fault), s.fault = some k → step s = .next t →
    t.fault = some k ∧ t = { s with pending := t.pending, result := t.result }

/-- Only ADVANCE raises a fault, and a transaction that raises one changes no other element. Rests on the
spec's decision D25. -/
def Obligations.OnlyAdvanceRaisesAFault : Prop :=
  ∀ (i : Instr) (s t : State) (k : Fault), exec i s = .next t → s.fault = none →
    t.fault = some k →
    (∃ delta, i = .advance delta) ∧ t = { s with fault := some k, result := some (.fault k) }

/-- R21: only `advance` changes the mode or the counter, and only it and a write to LY change the line,
which that write does. -/
def Obligations.OnlyAdvanceChangesModeAndCounter : Prop :=
  (∀ (i : Instr) (s t : State), exec i s = .next t →
    (t.mode ≠ s.mode ∨ t.cycleCounter ≠ s.cycleCounter → ∃ delta, i = .advance delta) ∧
    (t.line ≠ s.line → (∃ delta, i = .advance delta) ∨ ∃ d, i = .writeLy d)) ∧
  (∀ (s : State) (d : Byte), s.fault = none →
    exec (.writeLy d) s = .next { s with line := d, result := some .ok })

/-- R187: the flag becomes true at the HBlank end of line 143 only, false at a frame read only, no
register masks its output. Rests on the spec's decisions D7 and D19. -/
def Obligations.VblankFlagChangesOnlyAtItsTwoEvents : Prop :=
  ∀ (i : Instr) (s t : State), exec i s = .next t →
    (s.vblankPending = false → t.vblankPending = true →
      (∃ delta, i = .advance delta) ∧ s.mode = .hblank ∧ s.line = 143#8 ∧ t.mode = .vblank ∧
        t.line = 144#8) ∧
    (s.vblankPending = true → t.vblankPending = false → i = .readFrame) ∧
    t.irqOutput = t.vblankPending

/-- R28: only an `advance` that ends VRAMTransfer writes the frame buffer, and only the row of the
current line. Rests on the spec's decision D8. -/
def Obligations.OnlyARenderChangesTheFrameBuffer : Prop :=
  ∀ (i : Instr) (s t : State), exec i s = .next t → t.fb ≠ s.fb →
    (∃ delta, i = .advance delta ∧ 172 ≤ s.cycleCounter + delta) ∧
    s.mode = .vramTransfer ∧ t.mode = .hblank ∧ s.line.toNat ≤ 143 ∧
    ∀ j, j < s.line.toNat * 160 ∨ s.line.toNat * 160 + 160 ≤ j → t.fb.read j = s.fb.read j

/-- R27: OAM changes by WRITE_OAM only and VRAM by WRITE_VRAM only, so neither write touches the other
store. -/
def Obligations.OamAndVramNeverAlias : Prop :=
  ∀ (i : Instr) (s t : State), exec i s = .next t →
    (t.oam ≠ s.oam → (∃ a d, i = .writeOam a d) ∧ t.vram = s.vram) ∧
    (t.vram ≠ s.vram → (∃ a d, i = .writeVram a d) ∧ t.oam = s.oam)

/-- R180 and R182: a transaction that answers an error changes no element of the state; the error is
never `InvalidFieldEncoding`. Rests on the spec's decisions D11 and D27. -/
def Obligations.ErrorsChangeNothing : Prop :=
  ∀ (i : Instr) (s t : State) (k : ErrorKind) (a : Addr), exec i s = .next t →
    t.result = some (.error k a) →
    t = { s with result := t.result } ∧ s.fault = none ∧ k ≠ .invalidFieldEncoding

/-- R57: bus reads change nothing and repeat their answer, the frame read apart, which clears the flag; bus
writes repeated change nothing more, and BGP's read and write are as said. -/
def Obligations.ReadsHaveNoEffectAndWritesAreIdempotent : Prop :=
  (∀ (i : Instr) (s t : State), isBusRead i = true → exec i s = .next t →
    t = { s with result := t.result } ∧ exec i t = .next t) ∧
  (∀ (i : Instr) (s t : State), isBusWrite i = true → exec i s = .next t → exec i t = .next t) ∧
  (∀ s : State, s.fault = none →
    exec .readFrame s = .next { s with vblankPending := false, result := some (.frame s.fb) }) ∧
  (∀ (s : State) (d : Byte), s.fault = none →
    exec .readBgp s = .next { s with result := some (.error .writeToReadOnly 0xFF47#16) } ∧
    exec (.writeBgp d) s = .next { s with result := some .ok })

/-- Sequential consistency for the one agent: after a write at address `a`, a read at address `b` answers
the written byte if `b` is `a` and the location has storage, and what it answered before otherwise. -/
def Obligations.ReadReturnsTheLatestWrite : Prop :=
  ∀ (s : State) (a b : Addr) (d : Byte), s.fault = none →
    ∃ t u v, exec (decodeWrite a d) s = .next t ∧ exec (decodeRead b) t = .next u ∧
      exec (decodeRead b) s = .next v ∧
      u.result =
        if b = a ∧ isUnmapped a = false ∧ a ≠ 0xFF47#16 then some (.data d) else v.result

/-- R58: no access to VRAM, OAM or a register depends on the mode. Rests on the spec's decision D15. -/
def Obligations.AccessesIgnoreTheMode : Prop :=
  ∀ (i : Instr) (s t : State) (m : Mode), isBusRead i = true ∨ isBusWrite i = true →
    exec i s = .next t → exec i { s with mode := m } = .next { t with mode := m }

/-- R135, R27, R30 and R134: the inert LCDC fields, OAM, the STAT fields and the window position change
nothing that `advance` does. Rests on the spec's decisions D14, D16 and D30. -/
def Obligations.AdvanceIgnoresInertState : Prop :=
  ∀ (s t : State) (delta : Nat) (lcdc : LcdControl) (oam : Memory) (stat : LcdStatus)
    (wy wx : Byte), lcdc.bgTileMap = s.lcdc.bgTileMap → lcdc.bgwTileData = s.lcdc.bgwTileData →
    exec (.advance delta) s = .next t →
    exec (.advance delta)
        { s with lcdc := lcdc, oam := oam, stat := stat,
                 pos := { s.pos with windowY := wy, windowX := wx } } =
      .next
        { t with lcdc := lcdc, oam := oam, stat := stat,
                 pos := { t.pos with windowY := wy, windowX := wx } }

/-! ### Invariants -/

/-- Every step answers a next state: the block never stops. Rests on the spec's decisions D25 and logs 3,
4 and 5. -/
def Obligations.StepAlwaysAnswers : Prop := ∀ s : State, ∃ t, step s = .next t

/-- The reset state meets both invariants. Rests on log 8 (the canonical form). -/
def Obligations.ResetMeetsTheInvariants : Prop := State.reset.Inv ∧ State.reset.LineInRange

/-- Every step keeps the invariant: counter below the threshold, canonical memories and frame buffer,
STAT fields and window position at reset. Rests on the spec's decisions D16, D30 and log 8. -/
def Obligations.StepKeepsTheInvariant : Prop :=
  ∀ s t : State, s.Inv → step s = .next t → t.Inv

/-- While no write to LY is carried out, every step keeps the line in the range of its mode and raises no
fault. Rests on the spec's decisions D7 and D10, and on the spec's own derivation in R185. -/
def Obligations.StepKeepsTheLineInRange : Prop :=
  ∀ s t : State, s.LineInRange → s.NextIsNotWriteLy → step s = .next t → t.LineInRange

/-! ### Textual form -/

/-- Lines of 95_test_vectors.md 3 assemble to the words printed beside them, and `advline` to its three
lines (R89). Rests on the spec's decisions D3 and log 11. -/
def Obligations.TextAssemblesToTheWords : Prop :=
  assembleLine "rd LY".toList = some [0x00FF4400#32] ∧
    assembleLine "wr 0x8012, 0x5A".toList = some [0x4080125A#32] ∧
    assembleLine "wr SCX, 252".toList = some [0x40FF42FC#32] ∧
    assembleLine "adv 204".toList = some [0x800000CC#32] ∧
    assembleLine "FRAME".toList = some [0xC0000000#32] ∧
    assembleLine "advline".toList =
      assemble ["adv 80".toList, "adv 172".toList, "adv 204".toList]
end

