-- ==== Sys2Proof/Laws/Config.lean ====
section
/-! SUPPORT. The numbers of R8 and R9 as simp lemmas, so that no proof unfolds a parameter. -/

namespace Sys2Proof.Config

@[simp] theorem vramSize_eq : vramSize = 8192 := rfl
@[simp] theorem oamSize_eq : oamSize = 160 := rfl
@[simp] theorem screenW_eq : screenW = 160 := rfl
@[simp] theorem screenH_eq : screenH = 144 := rfl
@[simp] theorem lastLine_eq : lastLine = 153 := rfl
@[simp] theorem tileBytes_eq : tileBytes = 16 := rfl
@[simp] theorem tileset1Offset_eq : tileset1Offset = 2048 := rfl
@[simp] theorem map0Base_eq : map0Base = 6144 := rfl
@[simp] theorem map1Base_eq : map1Base = 7168 := rfl
@[simp] theorem mapColumns_eq : mapColumns = 32 := rfl
@[simp] theorem tileMapRowStride_eq : tileMapRowStride = 32 := rfl
@[simp] theorem fbSize_eq : fbSize = 23040 := rfl
@[simp] theorem tOam_eq : tOam = 80 := rfl
@[simp] theorem tVram_eq : tVram = 172 := rfl
@[simp] theorem tHblank_eq : tHblank = 204 := rfl
@[simp] theorem tVblankLine_eq : tVblankLine = 456 := rfl
@[simp] theorem vblankEntryLine_eq : vblankEntryLine = 143 := rfl
@[simp] theorem deltaBits_eq : deltaBits = 30 := rfl
@[simp] theorem set1Bit_eq : set1Bit = true := rfl

/-- `T_LINE` = 80 + 172 + 204 and `FRAME_CYCLES` = 154 lines of it (R9). -/
theorem frameCycles_eq : frameCycles = (lastLine + 1) * (tOam + tVram + tHblank) := rfl

end Sys2Proof.Config
end

