-- ==== Sys2Proof/Laws/PerInstr.lean ====
section
/-! SUPPORT. Per-instruction families. RowPattern: the command word that the encoder writes for a
well-formed transaction has the fixed bits of its row of spec/opcode_table.json. -/

namespace Sys2Proof.Laws.RowPattern

/-- The encoded word matches the row's pattern. -/
def Statement (i : Instr) : Prop := i.wellFormed = true → encode i &&& rowMask i = rowMatch i

theorem getLsbD_eq_decide {n : Nat} (a : BitVec n) (i : Nat) :
    a.getLsbD i = decide (a.toNat / 2 ^ i % 2 = 1) := by
  rw [← BitVec.testBit_toNat, Nat.testBit_eq_decide_div_mod_eq]

theorem vram_bits {a : Addr} (h : inVramWindow a = true) :
    a.getLsbD 15 = true ∧ a.getLsbD 14 = false ∧ a.getLsbD 13 = false := by
  have := a.isLt
  simp only [inVramWindow, Bool.and_eq_true, decide_eq_true_eq] at h
  simp only [getLsbD_eq_decide, decide_eq_true_eq, decide_eq_false_iff_not]
  omega

theorem oam_bits {a : Addr} (h : inOamWindow a = true) :
    a.getLsbD 15 = true ∧ a.getLsbD 14 = true ∧ a.getLsbD 13 = true ∧ a.getLsbD 12 = true ∧
      a.getLsbD 11 = true ∧ a.getLsbD 10 = true ∧ a.getLsbD 9 = true ∧ a.getLsbD 8 = false := by
  have := a.isLt
  simp only [inOamWindow, Bool.and_eq_true, decide_eq_true_eq] at h
  simp only [getLsbD_eq_decide, decide_eq_true_eq, decide_eq_false_iff_not]
  omega

/-- Two 32-bit words with the same bits are equal. -/
theorem word_ext {v w : Word} (h : ∀ i < 32, v.getLsbD i = w.getLsbD i) : v = w :=
  BitVec.eq_of_getLsbD_eq fun i hi => h i hi

theorem readVram (a : Addr) : Statement (.readVram a) := by
  intro h
  obtain ⟨h15, h14, h13⟩ := vram_bits h
  refine word_ext fun i hi => ?_
  simp only [encode, readWord, rowMask, rowMatch, BitVec.getLsbD_and, BitVec.getLsbD_append]
  interval_cases i <;> simp_all

theorem writeVram (a : Addr) (d : Byte) : Statement (.writeVram a d) := by
  intro h
  obtain ⟨h15, h14, h13⟩ := vram_bits h
  refine word_ext fun i hi => ?_
  simp only [encode, writeWord, rowMask, rowMatch, BitVec.getLsbD_and, BitVec.getLsbD_append]
  interval_cases i <;> simp_all

theorem readOam (a : Addr) : Statement (.readOam a) := by
  intro h
  obtain ⟨h15, h14, h13, h12, h11, h10, h9, h8⟩ := oam_bits h
  refine word_ext fun i hi => ?_
  simp only [encode, readWord, rowMask, rowMatch, BitVec.getLsbD_and, BitVec.getLsbD_append]
  interval_cases i <;> simp_all

theorem writeOam (a : Addr) (d : Byte) : Statement (.writeOam a d) := by
  intro h
  obtain ⟨h15, h14, h13, h12, h11, h10, h9, h8⟩ := oam_bits h
  refine word_ext fun i hi => ?_
  simp only [encode, writeWord, rowMask, rowMatch, BitVec.getLsbD_and, BitVec.getLsbD_append]
  interval_cases i <;> simp_all

/-- A WRITE word has its address in bits 23..8 whatever its data byte is. -/
theorem writeWord_mask (a : Addr) (d : Byte) :
    writeWord a d &&& 0xFFFFFF00#32 = writeWord a 0#8 := by
  refine word_ext fun i hi => ?_
  simp only [writeWord, BitVec.getLsbD_and, BitVec.getLsbD_append]
  interval_cases i <;> simp

theorem readLcdc : Statement .readLcdc := fun _ => by decide
theorem writeLcdc (d : Byte) : Statement (.writeLcdc d) := fun _ => writeWord_mask _ d
theorem readScx : Statement .readScx := fun _ => by decide
theorem writeScx (d : Byte) : Statement (.writeScx d) := fun _ => writeWord_mask _ d
theorem readScy : Statement .readScy := fun _ => by decide
theorem writeScy (d : Byte) : Statement (.writeScy d) := fun _ => writeWord_mask _ d
theorem readLy : Statement .readLy := fun _ => by decide
theorem writeLy (d : Byte) : Statement (.writeLy d) := fun _ => writeWord_mask _ d
theorem readBgp : Statement .readBgp := fun _ => by decide
theorem writeBgp (d : Byte) : Statement (.writeBgp d) := fun _ => writeWord_mask _ d

theorem readUnmapped (a : Addr) : Statement (.readUnmapped a) := by
  intro _
  refine word_ext fun i hi => ?_
  simp only [encode, readWord, rowMask, rowMatch, BitVec.getLsbD_and, BitVec.getLsbD_append]
  interval_cases i <;> simp

theorem writeUnmapped (a : Addr) (d : Byte) : Statement (.writeUnmapped a d) := by
  intro _
  refine word_ext fun i hi => ?_
  simp only [encode, writeWord, rowMask, rowMatch, BitVec.getLsbD_and, BitVec.getLsbD_append]
  interval_cases i <;> simp

theorem advance (delta : Nat) : Statement (.advance delta) := by
  intro _
  refine word_ext fun i hi => ?_
  simp only [encode, advanceWord, rowMask, rowMatch, BitVec.getLsbD_and, BitVec.getLsbD_append]
  interval_cases i <;> simp

theorem readFrame : Statement .readFrame := fun _ => by decide

end Sys2Proof.Laws.RowPattern
end

