-- ==== Sys2Proof/Laws/Decode.lean ====
section
/-! SUPPORT. The fields of the four command-word formats, and the decoder's address patterns as ranges. -/

namespace Sys2Proof

open Laws.RowPattern (getLsbD_eq_decide)

@[simp] theorem commandKind_readWord (a : Addr) : commandKind (readWord a) = .read := by
  have : (readWord a).extractLsb' 30 2 = 0b00#2 := by
    refine BitVec.eq_of_getLsbD_eq fun i hi => ?_
    simp only [readWord, BitVec.getLsbD_extractLsb', BitVec.getLsbD_append]
    interval_cases i <;> simp
  simp [commandKind, this]

@[simp] theorem commandKind_writeWord (a : Addr) (d : Byte) :
    commandKind (writeWord a d) = .write := by
  have : (writeWord a d).extractLsb' 30 2 = 0b01#2 := by
    refine BitVec.eq_of_getLsbD_eq fun i hi => ?_
    simp only [writeWord, BitVec.getLsbD_extractLsb', BitVec.getLsbD_append]
    interval_cases i <;> simp
  simp [commandKind, this]

@[simp] theorem commandKind_advanceWord (n : Nat) : commandKind (advanceWord n) = .advance := by
  have : (advanceWord n).extractLsb' 30 2 = 0b10#2 := by
    refine BitVec.eq_of_getLsbD_eq fun i hi => ?_
    simp only [advanceWord, BitVec.getLsbD_extractLsb', BitVec.getLsbD_append]
    interval_cases i <;> simp
  simp [commandKind, this]

@[simp] theorem addrField_readWord (a : Addr) : addrField (readWord a) = a := by
  refine BitVec.eq_of_getLsbD_eq fun i hi => ?_
  simp only [addrField, readWord, BitVec.getLsbD_extractLsb', BitVec.getLsbD_append]
  have : ¬ (8 + i < 8) := by omega
  have : 8 + i - 8 < 16 := by omega
  simp_all

@[simp] theorem addrField_writeWord (a : Addr) (d : Byte) : addrField (writeWord a d) = a := by
  refine BitVec.eq_of_getLsbD_eq fun i hi => ?_
  simp only [addrField, writeWord, BitVec.getLsbD_extractLsb', BitVec.getLsbD_append]
  have : ¬ (8 + i < 8) := by omega
  have : 8 + i - 8 < 16 := by omega
  simp_all

@[simp] theorem dataField_readWord (a : Addr) : dataField (readWord a) = 0 := by
  refine BitVec.eq_of_getLsbD_eq fun i hi => ?_
  simp only [dataField, readWord, BitVec.getLsbD_extractLsb', BitVec.getLsbD_append]
  interval_cases i <;> simp

@[simp] theorem dataField_writeWord (a : Addr) (d : Byte) : dataField (writeWord a d) = d := by
  refine BitVec.eq_of_getLsbD_eq fun i hi => ?_
  simp only [dataField, writeWord, BitVec.getLsbD_extractLsb', BitVec.getLsbD_append]
  interval_cases i <;> simp

@[simp] theorem reservedField_readWord (a : Addr) : reservedField (readWord a) = 0 := by
  refine BitVec.eq_of_getLsbD_eq fun i hi => ?_
  simp only [reservedField, readWord, BitVec.getLsbD_extractLsb', BitVec.getLsbD_append]
  interval_cases i <;> simp

@[simp] theorem reservedField_writeWord (a : Addr) (d : Byte) :
    reservedField (writeWord a d) = 0 := by
  refine BitVec.eq_of_getLsbD_eq fun i hi => ?_
  simp only [reservedField, writeWord, BitVec.getLsbD_extractLsb', BitVec.getLsbD_append]
  interval_cases i <;> simp

@[simp] theorem deltaField_advanceWord (n : Nat) :
    deltaField (advanceWord n) = BitVec.ofNat 30 n := by
  refine BitVec.eq_of_getLsbD_eq fun i hi => ?_
  simp only [deltaField, advanceWord, BitVec.getLsbD_extractLsb', BitVec.getLsbD_append]
  simp [hi]

/-- The pattern `A[15:13] = 0b100` is the VRAM window. -/
theorem vramPattern_iff (a : Addr) :
    a.extractLsb' 13 3 = 0b100#3 ↔ 0x8000 ≤ a.toNat ∧ a.toNat ≤ 0x9FFF := by
  have := a.isLt
  rw [← BitVec.toNat_inj]
  simp only [BitVec.extractLsb'_toNat, Nat.shiftRight_eq_div_pow, BitVec.toNat_ofNat]
  omega

/-- The pattern `A[15:8] = 0xFE` with `A[7:0] <= 0x9F` is the OAM window. -/
theorem oamPattern_iff (a : Addr) :
    (a.extractLsb' 8 8 = 0xFE#8 ∧ (a.extractLsb' 0 8).toNat ≤ 0x9F) ↔
      0xFE00 ≤ a.toNat ∧ a.toNat ≤ 0xFE9F := by
  have := a.isLt
  rw [← BitVec.toNat_inj]
  simp only [BitVec.extractLsb'_toNat, Nat.shiftRight_eq_div_pow, BitVec.toNat_ofNat]
  omega

end Sys2Proof
end

