-- ==== Sys2Proof/Laws/State.lean ====
section
/-! SUPPORT. One lemma per field per named update of the state, true by rfl, so that no later proof unfolds a
record update. -/

namespace Sys2Proof.Machine.State

@[simp] theorem reply_mode (s : State) (r : Result) : (s.reply r).mode = s.mode := rfl
@[simp] theorem reply_cycleCounter (s : State) (r : Result) : (s.reply r).cycleCounter = s.cycleCounter := rfl
@[simp] theorem reply_line (s : State) (r : Result) : (s.reply r).line = s.line := rfl
@[simp] theorem reply_vblankPending (s : State) (r : Result) : (s.reply r).vblankPending = s.vblankPending := rfl
@[simp] theorem reply_vram (s : State) (r : Result) : (s.reply r).vram = s.vram := rfl
@[simp] theorem reply_oam (s : State) (r : Result) : (s.reply r).oam = s.oam := rfl
@[simp] theorem reply_lcdc (s : State) (r : Result) : (s.reply r).lcdc = s.lcdc := rfl
@[simp] theorem reply_stat (s : State) (r : Result) : (s.reply r).stat = s.stat := rfl
@[simp] theorem reply_pos (s : State) (r : Result) : (s.reply r).pos = s.pos := rfl
@[simp] theorem reply_fb (s : State) (r : Result) : (s.reply r).fb = s.fb := rfl
@[simp] theorem reply_fault (s : State) (r : Result) : (s.reply r).fault = s.fault := rfl
@[simp] theorem reply_pending (s : State) (r : Result) : (s.reply r).pending = s.pending := rfl
@[simp] theorem reply_result (s : State) (r : Result) : (s.reply r).result = some r := rfl

@[simp] theorem enterFault_mode (s : State) (k : Fault) : (s.enterFault k).mode = s.mode := rfl
@[simp] theorem enterFault_cycleCounter (s : State) (k : Fault) : (s.enterFault k).cycleCounter = s.cycleCounter := rfl
@[simp] theorem enterFault_line (s : State) (k : Fault) : (s.enterFault k).line = s.line := rfl
@[simp] theorem enterFault_vblankPending (s : State) (k : Fault) : (s.enterFault k).vblankPending = s.vblankPending := rfl
@[simp] theorem enterFault_vram (s : State) (k : Fault) : (s.enterFault k).vram = s.vram := rfl
@[simp] theorem enterFault_oam (s : State) (k : Fault) : (s.enterFault k).oam = s.oam := rfl
@[simp] theorem enterFault_lcdc (s : State) (k : Fault) : (s.enterFault k).lcdc = s.lcdc := rfl
@[simp] theorem enterFault_stat (s : State) (k : Fault) : (s.enterFault k).stat = s.stat := rfl
@[simp] theorem enterFault_pos (s : State) (k : Fault) : (s.enterFault k).pos = s.pos := rfl
@[simp] theorem enterFault_fb (s : State) (k : Fault) : (s.enterFault k).fb = s.fb := rfl
@[simp] theorem enterFault_fault (s : State) (k : Fault) : (s.enterFault k).fault = some k := rfl
@[simp] theorem enterFault_pending (s : State) (k : Fault) : (s.enterFault k).pending = s.pending := rfl
@[simp] theorem enterFault_result (s : State) (k : Fault) : (s.enterFault k).result = some (.fault k) := rfl

@[simp] theorem enterMode_mode (s : State) (m : Mode) : (s.enterMode m).mode = m := rfl
@[simp] theorem enterMode_cycleCounter (s : State) (m : Mode) : (s.enterMode m).cycleCounter = 0 := rfl
@[simp] theorem enterMode_line (s : State) (m : Mode) : (s.enterMode m).line = s.line := rfl
@[simp] theorem enterMode_vblankPending (s : State) (m : Mode) : (s.enterMode m).vblankPending = s.vblankPending := rfl
@[simp] theorem enterMode_vram (s : State) (m : Mode) : (s.enterMode m).vram = s.vram := rfl
@[simp] theorem enterMode_oam (s : State) (m : Mode) : (s.enterMode m).oam = s.oam := rfl
@[simp] theorem enterMode_lcdc (s : State) (m : Mode) : (s.enterMode m).lcdc = s.lcdc := rfl
@[simp] theorem enterMode_stat (s : State) (m : Mode) : (s.enterMode m).stat = s.stat := rfl
@[simp] theorem enterMode_pos (s : State) (m : Mode) : (s.enterMode m).pos = s.pos := rfl
@[simp] theorem enterMode_fb (s : State) (m : Mode) : (s.enterMode m).fb = s.fb := rfl
@[simp] theorem enterMode_fault (s : State) (m : Mode) : (s.enterMode m).fault = s.fault := rfl
@[simp] theorem enterMode_pending (s : State) (m : Mode) : (s.enterMode m).pending = s.pending := rfl
@[simp] theorem enterMode_result (s : State) (m : Mode) : (s.enterMode m).result = s.result := rfl

@[simp] theorem dropTo_mode (s : State) (rest : List Word) : (s.dropTo rest).mode = s.mode := rfl
@[simp] theorem dropTo_cycleCounter (s : State) (rest : List Word) : (s.dropTo rest).cycleCounter = s.cycleCounter := rfl
@[simp] theorem dropTo_line (s : State) (rest : List Word) : (s.dropTo rest).line = s.line := rfl
@[simp] theorem dropTo_vblankPending (s : State) (rest : List Word) : (s.dropTo rest).vblankPending = s.vblankPending := rfl
@[simp] theorem dropTo_vram (s : State) (rest : List Word) : (s.dropTo rest).vram = s.vram := rfl
@[simp] theorem dropTo_oam (s : State) (rest : List Word) : (s.dropTo rest).oam = s.oam := rfl
@[simp] theorem dropTo_lcdc (s : State) (rest : List Word) : (s.dropTo rest).lcdc = s.lcdc := rfl
@[simp] theorem dropTo_stat (s : State) (rest : List Word) : (s.dropTo rest).stat = s.stat := rfl
@[simp] theorem dropTo_pos (s : State) (rest : List Word) : (s.dropTo rest).pos = s.pos := rfl
@[simp] theorem dropTo_fb (s : State) (rest : List Word) : (s.dropTo rest).fb = s.fb := rfl
@[simp] theorem dropTo_fault (s : State) (rest : List Word) : (s.dropTo rest).fault = s.fault := rfl
@[simp] theorem dropTo_pending (s : State) (rest : List Word) : (s.dropTo rest).pending = rest := rfl
@[simp] theorem dropTo_result (s : State) (rest : List Word) : (s.dropTo rest).result = s.result := rfl

@[simp] theorem setVblank_mode (s : State) : (s.setVblank).mode = s.mode := rfl
@[simp] theorem setVblank_cycleCounter (s : State) : (s.setVblank).cycleCounter = s.cycleCounter := rfl
@[simp] theorem setVblank_line (s : State) : (s.setVblank).line = s.line := rfl
@[simp] theorem setVblank_vblankPending (s : State) : (s.setVblank).vblankPending = true := rfl
@[simp] theorem setVblank_vram (s : State) : (s.setVblank).vram = s.vram := rfl
@[simp] theorem setVblank_oam (s : State) : (s.setVblank).oam = s.oam := rfl
@[simp] theorem setVblank_lcdc (s : State) : (s.setVblank).lcdc = s.lcdc := rfl
@[simp] theorem setVblank_stat (s : State) : (s.setVblank).stat = s.stat := rfl
@[simp] theorem setVblank_pos (s : State) : (s.setVblank).pos = s.pos := rfl
@[simp] theorem setVblank_fb (s : State) : (s.setVblank).fb = s.fb := rfl
@[simp] theorem setVblank_fault (s : State) : (s.setVblank).fault = s.fault := rfl
@[simp] theorem setVblank_pending (s : State) : (s.setVblank).pending = s.pending := rfl
@[simp] theorem setVblank_result (s : State) : (s.setVblank).result = s.result := rfl

@[simp] theorem clearVblank_mode (s : State) : (s.clearVblank).mode = s.mode := rfl
@[simp] theorem clearVblank_cycleCounter (s : State) : (s.clearVblank).cycleCounter = s.cycleCounter := rfl
@[simp] theorem clearVblank_line (s : State) : (s.clearVblank).line = s.line := rfl
@[simp] theorem clearVblank_vblankPending (s : State) : (s.clearVblank).vblankPending = false := rfl
@[simp] theorem clearVblank_vram (s : State) : (s.clearVblank).vram = s.vram := rfl
@[simp] theorem clearVblank_oam (s : State) : (s.clearVblank).oam = s.oam := rfl
@[simp] theorem clearVblank_lcdc (s : State) : (s.clearVblank).lcdc = s.lcdc := rfl
@[simp] theorem clearVblank_stat (s : State) : (s.clearVblank).stat = s.stat := rfl
@[simp] theorem clearVblank_pos (s : State) : (s.clearVblank).pos = s.pos := rfl
@[simp] theorem clearVblank_fb (s : State) : (s.clearVblank).fb = s.fb := rfl
@[simp] theorem clearVblank_fault (s : State) : (s.clearVblank).fault = s.fault := rfl
@[simp] theorem clearVblank_pending (s : State) : (s.clearVblank).pending = s.pending := rfl
@[simp] theorem clearVblank_result (s : State) : (s.clearVblank).result = s.result := rfl

@[simp] theorem withFetchWord_mode (s : State) (nbits w : Nat) : (s.withFetchWord nbits w).mode = s.mode := rfl
@[simp] theorem withFetchWord_cycleCounter (s : State) (nbits w : Nat) : (s.withFetchWord nbits w).cycleCounter = s.cycleCounter := rfl
@[simp] theorem withFetchWord_line (s : State) (nbits w : Nat) : (s.withFetchWord nbits w).line = s.line := rfl
@[simp] theorem withFetchWord_vblankPending (s : State) (nbits w : Nat) : (s.withFetchWord nbits w).vblankPending = s.vblankPending := rfl
@[simp] theorem withFetchWord_vram (s : State) (nbits w : Nat) : (s.withFetchWord nbits w).vram = s.vram := rfl
@[simp] theorem withFetchWord_oam (s : State) (nbits w : Nat) : (s.withFetchWord nbits w).oam = s.oam := rfl
@[simp] theorem withFetchWord_lcdc (s : State) (nbits w : Nat) : (s.withFetchWord nbits w).lcdc = s.lcdc := rfl
@[simp] theorem withFetchWord_stat (s : State) (nbits w : Nat) : (s.withFetchWord nbits w).stat = s.stat := rfl
@[simp] theorem withFetchWord_pos (s : State) (nbits w : Nat) : (s.withFetchWord nbits w).pos = s.pos := rfl
@[simp] theorem withFetchWord_fb (s : State) (nbits w : Nat) : (s.withFetchWord nbits w).fb = s.fb := rfl
@[simp] theorem withFetchWord_fault (s : State) (nbits w : Nat) : (s.withFetchWord nbits w).fault = s.fault := rfl
@[simp] theorem withFetchWord_pending (s : State) (nbits w : Nat) : (s.withFetchWord nbits w).pending = tableWord nbits w :: s.pending := rfl
@[simp] theorem withFetchWord_result (s : State) (nbits w : Nat) : (s.withFetchWord nbits w).result = s.result := rfl

/-- Answering twice keeps the later answer. -/
@[simp] theorem reply_reply (s : State) (r r' : Result) : (s.reply r).reply r' = s.reply r' := rfl

/-- The fetch word goes in front of the commands already pending, and taking it off restores the state. -/
theorem withFetchWord_dropTo (s : State) (nbits w : Nat) : (s.withFetchWord nbits w).dropTo s.pending = s := rfl

end Sys2Proof.Machine.State
end

