-- ==== Sys2Proof/Laws/Ops.lean ====
section
/-! SUPPORT. What each shared operation can do, said once: the faulted check, the store read, fetching,
and the offsets of the windows. -/

namespace Sys2Proof.Machine

theorem unlessFaulted_of_none {s : State} (h : s.fault = none)
    (body : Host.Outcome State Fault Refusal) : unlessFaulted s body = body := by
  simp [unlessFaulted, h]

theorem unlessFaulted_of_some {s : State} {k : Fault} (h : s.fault = some k)
    (body : Host.Outcome State Fault Refusal) :
    unlessFaulted s body = .next (s.reply (.faulted k)) := by
  simp [unlessFaulted, h, answer]

/-- A guarded transaction answers `Faulted`, or runs its body in a state without a fault. -/
theorem unlessFaulted_next {s t : State} {body : Host.Outcome State Fault Refusal}
    (h : unlessFaulted s body = .next t) :
    (∃ k, s.fault = some k ∧ t = s.reply (.faulted k)) ∨ (s.fault = none ∧ body = .next t) := by
  cases hf : s.fault with
  | none => exact .inr ⟨rfl, by rwa [unlessFaulted_of_none hf] at h⟩
  | some k =>
    rw [unlessFaulted_of_some hf] at h
    exact .inl ⟨k, rfl, by cases h; rfl⟩

theorem answer_next {r : Result} {s t : State} (h : answer r s = .next t) : t = s.reply r := by
  cases h; rfl

theorem readStore_of_lt {size off : Nat} (h : off < size) (m : Memory) (s : State) :
    readStore size m off s = .next (s.reply (.data (m.read off))) := by
  simp [readStore, h, answer]

theorem readStore_of_ge {size off : Nat} (h : size ≤ off) (m : Memory) (s : State) :
    readStore size m off s = .refused .storeOffsetOutOfRange := by
  simp [readStore, Nat.not_lt.mpr h]

theorem fetch_nil {s : State} (h : s.pending = []) : fetch s = none := by simp [fetch, h]

theorem fetch_cons {s : State} {w : Word} {rest : List Word} (h : s.pending = w :: rest) :
    fetch s = some (w, rest) := by simp [fetch, h]

theorem vramOffset_eq {a : Addr} (h : 0x8000 ≤ a.toNat) : vramOffset a = a.toNat - 0x8000 := by
  have := a.isLt
  simp only [vramOffset, BitVec.toNat_sub, BitVec.toNat_ofNat]
  omega

theorem oamOffset_eq {a : Addr} (h : 0xFE00 ≤ a.toNat) : oamOffset a = a.toNat - 0xFE00 := by
  have := a.isLt
  simp only [oamOffset, BitVec.toNat_sub, BitVec.toNat_ofNat]
  omega

/-- The offsets inside VRAM are those of the window's addresses. -/
theorem vramOffset_lt_iff (a : Addr) :
    vramOffset a < 8192 ↔ 0x8000 ≤ a.toNat ∧ a.toNat ≤ 0x9FFF := by
  have := a.isLt
  simp only [vramOffset, BitVec.toNat_sub, BitVec.toNat_ofNat]
  omega

/-- The offsets inside OAM are those of the window's addresses. -/
theorem oamOffset_lt_iff (a : Addr) :
    oamOffset a < 160 ↔ 0xFE00 ≤ a.toNat ∧ a.toNat ≤ 0xFE9F := by
  have := a.isLt
  simp only [oamOffset, BitVec.toNat_sub, BitVec.toNat_ofNat]
  omega

end Sys2Proof.Machine
end

