-- ==== Sys2Proof/Laws/Exec.lean ====
section
/-! SUPPORT. The inversion of exec and of step: everything a transaction that answers a next state can do,
said once, so that no later proof unfolds the meanings. -/

namespace Sys2Proof.Machine

/-- A transaction that only answers: the reads, WRITE_BGP and the errors, with what each answers. -/
inductive Answers (s : State) : Instr → Result → Prop
  | readVram (a : Addr) (h : vramOffset a < 8192) :
      Answers s (.readVram a) (.data (s.vram.read (vramOffset a)))
  | readOam (a : Addr) (h : oamOffset a < 160) :
      Answers s (.readOam a) (.data (s.oam.read (oamOffset a)))
  | readLcdc : Answers s .readLcdc (.data s.lcdc.encode)
  | readScx : Answers s .readScx (.data s.pos.scrollX)
  | readScy : Answers s .readScy (.data s.pos.scrollY)
  | readLy : Answers s .readLy (.data s.line)
  | readBgp : Answers s .readBgp (.error .writeToReadOnly 0xFF47#16)
  | writeBgp (d : Byte) : Answers s (.writeBgp d) .ok
  | readUnmapped (a : Addr) : Answers s (.readUnmapped a) (.error .unmappedAddress a)
  | writeUnmapped (a : Addr) (d : Byte) :
      Answers s (.writeUnmapped a d) (.error .unmappedAddress a)

/-- What an `advance` of `delta` does to a state without a fault. -/
inductive Advances (delta : Nat) (s : State) : State → Prop
  | accumulate (h : s.cycleCounter + delta < threshold s.mode) :
      Advances delta s ({ s with cycleCounter := s.cycleCounter + delta }.reply .ok)
  | oamSearchEnd (hm : s.mode = .oamSearch) (h : 80 ≤ s.cycleCounter + delta) :
      Advances delta s ((s.enterMode .vramTransfer).reply .ok)
  | vramTransferEnd (fb : FrameBuffer) (hm : s.mode = .vramTransfer)
      (h : 172 ≤ s.cycleCounter + delta) (hr : renderScanline s = .ok fb) :
      Advances delta s (({ s with fb := fb }.enterMode .hblank).reply .ok)
  | renderFault (k : Fault) (hm : s.mode = .vramTransfer) (h : 172 ≤ s.cycleCounter + delta)
      (hr : renderScanline s = .error k) : Advances delta s (s.enterFault k)
  | vblankEntry (hm : s.mode = .hblank) (h : 204 ≤ s.cycleCounter + delta)
      (hl : s.line.toNat = 143) :
      Advances delta s (({ s with line := s.line + 1 }.setVblank.enterMode .vblank).reply .ok)
  | lineOverflow (hm : s.mode = .hblank) (h : 204 ≤ s.cycleCounter + delta)
      (hl : s.line.toNat = 255) : Advances delta s (s.enterFault .lineCounterOverflow)
  | nextLine (hm : s.mode = .hblank) (h : 204 ≤ s.cycleCounter + delta)
      (hl : s.line.toNat ≠ 143) (hl' : s.line.toNat ≠ 255) :
      Advances delta s (({ s with line := s.line + 1 }.enterMode .oamSearch).reply .ok)
  | frameWrap (hm : s.mode = .vblank) (h : 456 ≤ s.cycleCounter + delta)
      (hl : 153 < s.line.toNat + 1) :
      Advances delta s (({ s with line := 0 }.enterMode .oamSearch).reply .ok)
  | nextVblankLine (hm : s.mode = .vblank) (h : 456 ≤ s.cycleCounter + delta)
      (hl : s.line.toNat + 1 ≤ 153) :
      Advances delta s
        (({ s with line := BitVec.ofNat 8 (s.line.toNat + 1) }.enterMode .vblank).reply .ok)

/-- What a transaction does to a state when it answers a next state. -/
inductive Moves (s : State) : Instr → State → Prop
  | faulted (i : Instr) (k : Fault) (hf : s.fault = some k) : Moves s i (s.reply (.faulted k))
  | answers (i : Instr) (r : Result) (hf : s.fault = none) (h : Answers s i r) :
      Moves s i (s.reply r)
  | writeVram (a : Addr) (d : Byte) (hf : s.fault = none) (h : vramOffset a < 8192) :
      Moves s (.writeVram a d) ({ s with vram := s.vram.write (vramOffset a) d }.reply .ok)
  | writeOam (a : Addr) (d : Byte) (hf : s.fault = none) (h : oamOffset a < 160) :
      Moves s (.writeOam a d) ({ s with oam := s.oam.write (oamOffset a) d }.reply .ok)
  | writeLcdc (d : Byte) (hf : s.fault = none) :
      Moves s (.writeLcdc d) ({ s with lcdc := LcdControl.decode d }.reply .ok)
  | writeScx (d : Byte) (hf : s.fault = none) :
      Moves s (.writeScx d) ({ s with pos := { s.pos with scrollX := d } }.reply .ok)
  | writeScy (d : Byte) (hf : s.fault = none) :
      Moves s (.writeScy d) ({ s with pos := { s.pos with scrollY := d } }.reply .ok)
  | writeLy (d : Byte) (hf : s.fault = none) :
      Moves s (.writeLy d) ({ s with line := d }.reply .ok)
  | advance (delta : Nat) (t : State) (hf : s.fault = none) (h : Advances delta s t) :
      Moves s (.advance delta) t
  | readFrame (hf : s.fault = none) : Moves s .readFrame (s.clearVblank.reply (.frame s.fb))

/-- Everything `advance` can do. -/
theorem execAdvance_next {delta : Nat} {s t : State} (h : execAdvance delta s = .next t) :
    (∃ k, s.fault = some k ∧ t = s.reply (.faulted k)) ∨ (s.fault = none ∧ Advances delta s t) := by
  rcases unlessFaulted_next h with h | ⟨hf, h⟩
  · exact .inl h
  · refine .inr ⟨hf, ?_⟩
    simp only at h
    split at h
    · rename_i hth
      cases hm : s.mode with
      | oamSearch =>
        simp only [hm, endOamSearch, threshold, Config.tOam_eq] at h hth
        cases answer_next h; exact .oamSearchEnd hm hth
      | vramTransfer =>
        simp only [hm, endVramTransfer, threshold, Config.tVram_eq] at h hth
        cases hr : renderScanline s with
        | error k =>
          simp only [hr, raiseFault, Host.Outcome.next.injEq] at h
          subst h; exact .renderFault k hm hth hr
        | ok fb =>
          simp only [hr] at h
          cases answer_next h; exact .vramTransferEnd fb hm hth hr
      | hblank =>
        simp only [hm, endHblank, threshold, Config.tHblank_eq, Config.vblankEntryLine_eq] at h hth
        split at h
        · cases answer_next h; exact .vblankEntry hm hth ‹_›
        · split at h
          · simp only [raiseFault, Host.Outcome.next.injEq] at h
            subst h; exact .lineOverflow hm hth ‹_›
          · cases answer_next h; exact .nextLine hm hth ‹_› ‹_›
      | vblank =>
        simp only [hm, endVblankLine, threshold, Config.tVblankLine_eq, Config.lastLine_eq] at h hth
        split at h
        · cases answer_next h; exact .frameWrap hm hth ‹_›
        · cases answer_next h; exact .nextVblankLine hm hth (by omega)
    · cases answer_next h; exact .accumulate (by omega)

/-- Everything a transaction can do. -/
theorem exec_moves {i : Instr} {s t : State} (h : exec i s = .next t) : Moves s i t := by
  have answers : ∀ {i : Instr} {r : Result}, Answers s i r →
      unlessFaulted s (answer r s) = .next t → Moves s i t := by
    intro i r hr h
    rcases unlessFaulted_next h with ⟨k, hf, rfl⟩ | ⟨hf, h⟩
    · exact .faulted _ k hf
    · cases answer_next h; exact .answers _ r hf hr
  cases i with
  | readVram a =>
    rcases unlessFaulted_next h with ⟨k, hf, rfl⟩ | ⟨hf, h⟩
    · exact .faulted _ k hf
    · by_cases hlt : vramOffset a < Config.vramSize
      · rw [readStore_of_lt hlt] at h; cases h; exact .answers _ _ hf (.readVram a hlt)
      · rw [readStore_of_ge (Nat.le_of_not_lt hlt)] at h; cases h
  | writeVram a d =>
    rcases unlessFaulted_next h with ⟨k, hf, rfl⟩ | ⟨hf, h⟩
    · exact .faulted _ k hf
    · by_cases hlt : vramOffset a < Config.vramSize
      · rw [if_pos hlt] at h; cases answer_next h; exact .writeVram a d hf hlt
      · rw [if_neg hlt] at h; cases h
  | readOam a =>
    rcases unlessFaulted_next h with ⟨k, hf, rfl⟩ | ⟨hf, h⟩
    · exact .faulted _ k hf
    · by_cases hlt : oamOffset a < Config.oamSize
      · rw [readStore_of_lt hlt] at h; cases h; exact .answers _ _ hf (.readOam a hlt)
      · rw [readStore_of_ge (Nat.le_of_not_lt hlt)] at h; cases h
  | writeOam a d =>
    rcases unlessFaulted_next h with ⟨k, hf, rfl⟩ | ⟨hf, h⟩
    · exact .faulted _ k hf
    · by_cases hlt : oamOffset a < Config.oamSize
      · rw [if_pos hlt] at h; cases answer_next h; exact .writeOam a d hf hlt
      · rw [if_neg hlt] at h; cases h
  | readLcdc => exact answers .readLcdc h
  | writeLcdc d =>
    rcases unlessFaulted_next h with ⟨k, hf, rfl⟩ | ⟨hf, h⟩
    · exact .faulted _ k hf
    · cases answer_next h; exact .writeLcdc d hf
  | readScx => exact answers .readScx h
  | writeScx d =>
    rcases unlessFaulted_next h with ⟨k, hf, rfl⟩ | ⟨hf, h⟩
    · exact .faulted _ k hf
    · cases answer_next h; exact .writeScx d hf
  | readScy => exact answers .readScy h
  | writeScy d =>
    rcases unlessFaulted_next h with ⟨k, hf, rfl⟩ | ⟨hf, h⟩
    · exact .faulted _ k hf
    · cases answer_next h; exact .writeScy d hf
  | readLy => exact answers .readLy h
  | writeLy d =>
    rcases unlessFaulted_next h with ⟨k, hf, rfl⟩ | ⟨hf, h⟩
    · exact .faulted _ k hf
    · cases answer_next h; exact .writeLy d hf
  | readBgp => exact answers .readBgp h
  | writeBgp d => exact answers (.writeBgp d) h
  | readUnmapped a => exact answers (.readUnmapped a) h
  | writeUnmapped a d => exact answers (.writeUnmapped a d) h
  | advance delta =>
    rcases execAdvance_next h with ⟨k, hf, rfl⟩ | ⟨hf, h⟩
    · exact .faulted _ k hf
    · exact .advance delta t hf h
  | readFrame =>
    rcases unlessFaulted_next h with ⟨k, hf, rfl⟩ | ⟨hf, h⟩
    · exact .faulted _ k hf
    · cases answer_next h; exact .readFrame hf

/-- A transaction that only answers does so in a state without a fault. -/
theorem exec_of_answers {s : State} {i : Instr} {r : Result} (hf : s.fault = none) (h : Answers s i r) :
    exec i s = .next (s.reply r) := by
  cases h with
  | readVram a h => exact (unlessFaulted_of_none hf _).trans (readStore_of_lt h _ _)
  | readOam a h => exact (unlessFaulted_of_none hf _).trans (readStore_of_lt h _ _)
  | _ => exact unlessFaulted_of_none hf _

/-- Each case of `Advances` is what `advance` does. -/
theorem exec_of_advances {s t : State} {delta : Nat} (hf : s.fault = none) (h : Advances delta s t) :
    exec (.advance delta) s = .next t := by
  refine (unlessFaulted_of_none hf _).trans ?_
  cases h with
  | accumulate h => simp [Nat.not_le.mpr h, answer]
  | oamSearchEnd hm h => simp [hm, threshold, h, endOamSearch, answer]
  | vramTransferEnd fb hm h hr => simp [hm, threshold, h, endVramTransfer, hr, answer]
  | renderFault k hm h hr => simp [hm, threshold, h, endVramTransfer, hr, raiseFault]
  | vblankEntry hm h hl => simp [hm, threshold, h, endHblank, hl, answer]
  | lineOverflow hm h hl => simp [hm, threshold, h, endHblank, hl, raiseFault]
  | nextLine hm h hl hl' => simp [hm, threshold, h, endHblank, hl, hl', answer]
  | frameWrap hm h hl => simp [hm, threshold, h, endVblankLine, hl, answer]
  | nextVblankLine hm h hl => simp [hm, threshold, h, endVblankLine, Nat.not_lt.mpr hl, answer]

/-- Each case of `Moves` is what the transaction does: the inversion loses nothing. -/
theorem exec_of_moves {i : Instr} {s t : State} (h : Moves s i t) : exec i s = .next t := by
  cases h with
  | faulted i k hf => cases i <;> exact unlessFaulted_of_some hf _
  | answers i r hf h => exact exec_of_answers hf h
  | writeVram a d hf h => exact (unlessFaulted_of_none hf _).trans (if_pos h)
  | writeOam a d hf h => exact (unlessFaulted_of_none hf _).trans (if_pos h)
  | advance delta t hf h => exact exec_of_advances hf h
  | writeLcdc d hf => exact unlessFaulted_of_none hf _
  | writeScx d hf => exact unlessFaulted_of_none hf _
  | writeScy d hf => exact unlessFaulted_of_none hf _
  | writeLy d hf => exact unlessFaulted_of_none hf _
  | readFrame hf => exact unlessFaulted_of_none hf _

theorem exec_next_iff {i : Instr} {s t : State} : exec i s = .next t ↔ Moves s i t :=
  ⟨exec_moves, exec_of_moves⟩

/-- Everything a step can do: nothing, the verdict on a reserved word, or the decoded transaction. -/
theorem step_next {s t : State} (h : step s = .next t) :
    (s.pending = [] ∧ t = s) ∨
      ∃ w rest, s.pending = w :: rest ∧
        ((decode w = .error .illegalCommand ∧ t = (s.dropTo rest).reply .illegalCommand) ∨
          ∃ i, decode w = .ok i ∧ exec i (s.dropTo rest) = .next t) := by
  cases hp : s.pending with
  | nil =>
    simp only [step, fetch_nil hp, idle, Host.Outcome.next.injEq] at h
    exact .inl ⟨rfl, h.symm⟩
  | cons w rest =>
    refine .inr ⟨w, rest, rfl, ?_⟩
    simp only [step, fetch_cons hp] at h
    cases hd : decode w with
    | error e =>
      cases e
      simp only [hd] at h
      exact .inl ⟨rfl, answer_next h⟩
    | ok i =>
      simp only [hd] at h
      exact .inr ⟨i, rfl, h⟩

end Sys2Proof.Machine
end

