-- ==== Sys2Proof/Laws/Memory.lean ====
section
/-! SUPPORT. The laws of the sparse stores: read after write, the canonical form and its uniqueness. -/

namespace Sys2Proof.Machine

variable {α : Type}

namespace Sparse

@[simp] theorem read_nil (d : α) (k : Nat) : read d k [] = d := rfl

theorem read_cons (d : α) (k k' : Nat) (v : α) (l : List (Nat × α)) :
    read d k ((k', v) :: l) = if k' = k then v else read d k l := rfl

theorem read_erase (d : α) (k k' : Nat) (l : List (Nat × α)) :
    read d k (erase k' l) = if k = k' then d else read d k l := by
  induction l with
  | nil => simp [erase]
  | cons e l ih =>
    obtain ⟨j, v⟩ := e
    by_cases hj : j = k' <;> by_cases hk : j = k <;> simp_all [erase, read_cons]

theorem read_insert (d : α) (k k' : Nat) (v : α) (l : List (Nat × α)) :
    read d k (insert k' v l) = if k = k' then v else read d k l := by
  induction l with
  | nil => simp [insert, read_cons, eq_comm]
  | cons e l ih =>
    obtain ⟨j, u⟩ := e
    by_cases hj : j < k'
    · simp only [insert, hj, if_true, read_cons, ih]
      split <;> split <;> first | rfl | omega
    · simp [insert, hj, read_cons, eq_comm]

theorem erase_erase (k : Nat) (l : List (Nat × α)) : erase k (erase k l) = erase k l := by
  induction l with
  | nil => rfl
  | cons e l ih =>
    obtain ⟨j, v⟩ := e
    by_cases hj : j = k <;> simp [erase, hj, ih]

theorem erase_insert (k : Nat) (v : α) (l : List (Nat × α)) :
    erase k (insert k v (erase k l)) = erase k l := by
  have key : ∀ l' : List (Nat × α), erase k (insert k v l') = erase k l' := by
    intro l'
    induction l' with
    | nil => simp [insert, erase]
    | cons e l' ih =>
      obtain ⟨j, u⟩ := e
      by_cases hj : j < k
      · have : j ≠ k := by omega
        simp [insert, erase, hj, this, ih]
      · simp [insert, hj]
        rw [erase]
        simp
  rw [key, erase_erase]

/-- Read after write: the written value at its key, the old one at every other key. -/
theorem read_write [DecidableEq α] (d : α) (k k' : Nat) (v : α) (l : List (Nat × α)) :
    read d k (write d k' v l) = if k = k' then v else read d k l := by
  unfold write
  split
  · subst v; exact read_erase d k k' l
  · rw [read_insert, read_erase]; split <;> rfl

variable [DecidableEq α] {d : α} {size : Nat}

theorem wfFrom_cons {lo k : Nat} {v : α} {l : List (Nat × α)} :
    wfFrom d size lo ((k, v) :: l) = true ↔
      lo ≤ k ∧ k < size ∧ v ≠ d ∧ wfFrom d size (k + 1) l = true := by
  simp [wfFrom, and_assoc]

theorem wfFrom_mono {lo lo' : Nat} {l : List (Nat × α)} (h : wfFrom d size lo l = true)
    (hle : lo' ≤ lo) : wfFrom d size lo' l = true := by
  cases l with
  | nil => rfl
  | cons e l =>
    obtain ⟨k, v⟩ := e
    rw [wfFrom_cons] at h ⊢
    exact ⟨hle.trans h.1, h.2⟩

theorem wfFrom_erase {k : Nat} {l : List (Nat × α)} :
    ∀ {lo : Nat}, wfFrom d size lo l = true → wfFrom d size lo (erase k l) = true := by
  induction l with
  | nil => intro lo h; exact h
  | cons e l ih =>
    obtain ⟨j, v⟩ := e
    intro lo h
    rw [wfFrom_cons] at h
    obtain ⟨h1, h2, h3, h4⟩ := h
    by_cases hj : j = k
    · simpa [erase, hj] using wfFrom_mono (ih h4) (by omega)
    · simpa [erase, hj] using wfFrom_cons.mpr ⟨h1, h2, h3, ih h4⟩

theorem wfFrom_insert_erase {k : Nat} {v : α} {l : List (Nat × α)} (hk : k < size) (hv : v ≠ d) :
    ∀ {lo : Nat}, lo ≤ k → wfFrom d size lo l = true →
      wfFrom d size lo (insert k v (erase k l)) = true := by
  induction l with
  | nil => intro lo hlo _; simp [erase, insert, wfFrom, hlo, hk, hv]
  | cons e l ih =>
    obtain ⟨j, u⟩ := e
    intro lo hlo h
    rw [wfFrom_cons] at h
    obtain ⟨h1, h2, h3, h4⟩ := h
    by_cases hj : j = k
    · simpa [erase, hj] using ih hlo (wfFrom_mono h4 (by omega))
    · by_cases hlt : j < k
      · simpa [erase, hj, insert, hlt] using wfFrom_cons.mpr ⟨h1, h2, h3, ih (by omega) h4⟩
      · simp only [erase, hj, insert, hlt, if_false]
        exact wfFrom_cons.mpr ⟨hlo, hk, hv, wfFrom_cons.mpr ⟨by omega, h2, h3, wfFrom_erase h4⟩⟩

/-- Every write inside the store keeps the canonical form. -/
theorem wfFrom_write {lo k : Nat} {v : α} {l : List (Nat × α)} (hlo : lo ≤ k) (hk : k < size)
    (h : wfFrom d size lo l = true) : wfFrom d size lo (write d k v l) = true := by
  unfold write
  split
  · exact wfFrom_erase h
  · exact wfFrom_insert_erase hk ‹_› hlo h

theorem read_below {lo k : Nat} {l : List (Nat × α)} (h : wfFrom d size lo l = true) (hk : k < lo) :
    read d k l = d := by
  induction l generalizing lo with
  | nil => rfl
  | cons e l ih =>
    obtain ⟨j, v⟩ := e
    rw [wfFrom_cons] at h
    rw [read_cons, if_neg (by omega)]
    exact ih h.2.2.2 (by omega)

/-- The canonical form is unique: stores that read alike everywhere are equal data. -/
theorem ext_of_read {lo : Nat} {l l' : List (Nat × α)} (h : wfFrom d size lo l = true)
    (h' : wfFrom d size lo l' = true) (hr : ∀ k, read d k l = read d k l') : l = l' := by
  induction l generalizing lo l' with
  | nil =>
    cases l' with
    | nil => rfl
    | cons e' l' =>
      obtain ⟨k', v'⟩ := e'
      rw [wfFrom_cons] at h'
      have := hr k'
      rw [read_cons, if_pos rfl] at this
      exact absurd this.symm h'.2.2.1
  | cons e l ih =>
    obtain ⟨k, v⟩ := e
    rw [wfFrom_cons] at h
    cases l' with
    | nil =>
      have := hr k
      rw [read_cons, if_pos rfl] at this
      exact absurd this h.2.2.1
    | cons e' l' =>
      obtain ⟨k', v'⟩ := e'
      rw [wfFrom_cons] at h'
      have hkk : k = k' := by
        have h1 := hr k
        have h2 := hr k'
        simp only [read_cons, if_true] at h1 h2
        rcases Nat.lt_trichotomy k k' with hlt | heq | hgt
        · rw [if_neg (by omega), read_below h'.2.2.2 (by omega)] at h1
          exact absurd h1 h.2.2.1
        · exact heq
        · rw [if_neg (by omega), read_below h.2.2.2 (by omega)] at h2
          exact absurd h2.symm h'.2.2.1
      subst hkk
      have hv : v = v' := by simpa [read_cons] using hr k
      subst hv
      congr 1
      refine ih h.2.2.2 h'.2.2.2 fun j => ?_
      by_cases hj : k = j
      · subst hj
        rw [read_below h.2.2.2 (by omega), read_below h'.2.2.2 (by omega)]
      · simpa [read_cons, hj] using hr j

/-- A second write of the same value changes nothing more. -/
theorem write_write (k : Nat) (v : α) (l : List (Nat × α)) :
    write d k v (write d k v l) = write d k v l := by
  unfold write
  by_cases hv : v = d
  · simp [hv, erase_erase]
  · simp [hv, erase_insert]

end Sparse

namespace Memory

@[simp] theorem read_nil (off : Nat) : Memory.read [] off = 0 := rfl

theorem read_write (m : Memory) (off off' : Nat) (v : Byte) :
    (m.write off' v).read off = if off = off' then v else m.read off :=
  Sparse.read_write _ _ _ _ _

@[simp] theorem read_write_same (m : Memory) (off : Nat) (v : Byte) :
    (m.write off v).read off = v := by simp [read_write]

theorem read_write_other (m : Memory) {off off' : Nat} (v : Byte) (h : off ≠ off') :
    (m.write off' v).read off = m.read off := by simp [read_write, h]

theorem wf_write {size off : Nat} {m : Memory} (v : Byte) (hoff : off < size)
    (h : m.wf size = true) : (m.write off v).wf size = true :=
  Sparse.wfFrom_write (Nat.zero_le _) hoff h

theorem write_write (m : Memory) (off : Nat) (v : Byte) :
    (m.write off v).write off v = m.write off v := Sparse.write_write _ _ _

theorem ext_of_read {size : Nat} {m m' : Memory} (h : m.wf size = true) (h' : m'.wf size = true)
    (hr : ∀ off, m.read off = m'.read off) : m = m' := Sparse.ext_of_read h h' hr

end Memory

namespace FrameBuffer

@[simp] theorem read_nil (i : Nat) : FrameBuffer.read [] i = Config.fbReset := rfl

theorem read_write (fb : FrameBuffer) (i j : Nat) (c : Rgb) :
    (fb.write j c).read i = if i = j then c else fb.read i :=
  Sparse.read_write _ _ _ _ _

theorem wf_write {i : Nat} {fb : FrameBuffer} (c : Rgb) (hi : i < 23040) (h : fb.wf = true) :
    (fb.write i c).wf = true :=
  Sparse.wfFrom_write (Nat.zero_le _) hi h

end FrameBuffer

end Sys2Proof.Machine
end

