-- ==== Sys2Proof/Laws/Renderer.lean ====
section
/-! SUPPORT. What the column loop of the renderer writes, said once. -/

namespace Sys2Proof.Machine

variable {vram : Memory} {map data : TileSelector} {yOff y start : Nat}

/-- The loop writes no element outside its columns. -/
theorem renderColumns_read_outside (n : Nat) : ∀ {column x xOff : Nat} {t : Byte} {fb : FrameBuffer}
    {i : Nat}, (i < start + column ∨ start + column + n ≤ i) →
      (renderColumns vram map data yOff y start n column x xOff t fb).read i = fb.read i := by
  induction n with
  | zero => intros; rfl
  | succ n ih =>
    intro column x xOff t fb i hi
    simp only [renderColumns]
    split <;> rw [ih (by omega), FrameBuffer.read_write, if_neg (by omega)]

/-- The loop keeps the frame buffer canonical while its columns lie inside it. -/
theorem renderColumns_wf (n : Nat) : ∀ {column x xOff : Nat} {t : Byte} {fb : FrameBuffer},
    start + column + n ≤ 23040 → fb.wf = true →
      (renderColumns vram map data yOff y start n column x xOff t fb).wf = true := by
  induction n with
  | zero => intro _ _ _ _ _ _ h; exact h
  | succ n ih =>
    intro column x xOff t fb hb h
    simp only [renderColumns]
    split <;> exact ih (by omega) (FrameBuffer.wf_write _ (by omega) h)

/-- Column `c` of the loop shows background column `xOff * 8 + x + c`, wrapped at 256. -/
theorem renderColumns_read_inside (n : Nat) : ∀ {column x xOff : Nat} {t : Byte} {fb : FrameBuffer}
    {c : Nat}, x < 8 → xOff < 32 → t = vram.read (mapEntryOffset map yOff xOff) → c < n →
      (renderColumns vram map data yOff y start n column x xOff t fb).read (start + column + c) =
        toRgb (decodeTilePixel vram data
          (vram.read (mapEntryOffset map yOff ((xOff * 8 + x + c) % 256 / 8)))
          (y * 8 + (xOff * 8 + x + c) % 8)) := by
  induction n with
  | zero => intro _ _ _ _ _ _ _ _ _ h; omega
  | succ n ih =>
    intro column x xOff t fb c hx hxo ht hc
    simp only [renderColumns, Config.mapColumns_eq]
    cases c with
    | zero =>
      have h1 : (xOff * 8 + x + 0) % 256 / 8 = xOff := by omega
      have h2 : (xOff * 8 + x + 0) % 8 = x := by omega
      rw [h1, h2, ← ht]
      split <;> rw [renderColumns_read_outside n (by omega), FrameBuffer.read_write, if_pos (by omega)]
    | succ c =>
      have hcol : start + column + (c + 1) = start + (column + 1) + c := by omega
      rw [hcol]
      split
      · rw [ih (by omega) (Nat.mod_lt _ (by omega)) rfl (by omega)]
        have h1 : ((xOff + 1) % 32 * 8 + 0 + c) % 256 / 8 = (xOff * 8 + x + (c + 1)) % 256 / 8 := by
          omega
        have h2 : ((xOff + 1) % 32 * 8 + 0 + c) % 8 = (xOff * 8 + x + (c + 1)) % 8 := by omega
        rw [h1, h2]
      · rw [ih (by omega) hxo ht (by omega)]
        have h1 : xOff * 8 + (x + 1) + c = xOff * 8 + x + (c + 1) := by omega
        rw [h1]

end Sys2Proof.Machine
end

