-- ==== Sys2Proof/Tests/Slice0.lean ====
section
/-! SUPPORT. Tests of the model against the spec's own vectors (95_test_vectors.md, sections named at each
test) and the witnesses of the statements' hypotheses. -/

namespace Sys2Proof.Tests

open Sys2Proof Sys2Proof.Machine

/-! ### Helpers -/

/-- The state after the command word `w`, issued in `s`. -/
def after (s : State) (w : Nat) : State :=
  match step (s.withFetchWord 32 w) with
  | .next t => t
  | .fault _ => s
  | .refused _ => s

/-- A state `{mode, cc, line, vb}` in the notation of 95_test_vectors.md, the rest as at reset. -/
def at' (m : Mode) (cc : Nat) (line : Byte) (vb : Bool) : State :=
  { State.reset with mode := m, cycleCounter := cc, line := line, vblankPending := vb }

/-- What 95_test_vectors.md writes of a state. -/
def view (s : State) : Mode × Nat × Nat × Bool :=
  (s.mode, s.cycleCounter, s.line.toNat, s.vblankPending)

/-- The listed columns of the current line's row after the render that ends VRAMTransfer. -/
def rendered (s : State) (columns : List Nat) : List Rgb :=
  columns.map fun x => (after { s with mode := .vramTransfer } 0x800000AC).fb.read
    (s.line.toNat * 160 + x)

def white : Rgb := ⟨255, 255, 255⟩
def light : Rgb := ⟨192, 192, 192⟩
def dark : Rgb := ⟨96, 96, 96⟩
def black : Rgb := ⟨0, 0, 0⟩

/-! ### Well-formedness: an ill-formed term for each check (R51, R72) -/

theorem test_wellFormed_refuses_vram :
    Instr.wellFormed (.readVram 0x7FFF) = false ∧ Instr.wellFormed (.writeVram 0xA000 0) = false := by
  decide

theorem test_wellFormed_refuses_oam :
    Instr.wellFormed (.readOam 0xFEA0) = false ∧ Instr.wellFormed (.writeOam 0xFDFF 0) = false := by
  decide

theorem test_wellFormed_refuses_unmapped :
    Instr.wellFormed (.readUnmapped 0x8000) = false ∧
      Instr.wellFormed (.writeUnmapped 0xFF44 0) = false := by decide

theorem test_wellFormed_refuses_delta : Instr.wellFormed (.advance 1073741824) = false := by decide

/-! ### Decoding (2.1): words written out from the formats of R72 to R75 -/

theorem test_decode_read_memory :
    decodeTableWord 32 0b00000000100000001001101000000000 = some (.readVram 0x809A) ∧
      decodeTableWord 32 0x009FFF00 = some (.readVram 0x9FFF) ∧
      decodeTableWord 32 0b00000000111111101001111100000000 = some (.readOam 0xFE9F) := by decide

theorem test_decode_write_memory :
    decodeTableWord 32 0b01000000100000000000000010101011 = some (.writeVram 0x8000 0xAB) ∧
      decodeTableWord 32 0b01000000111111100000000000010001 = some (.writeOam 0xFE00 0x11) := by
  decide

theorem test_decode_read_registers :
    decodeTableWord 32 0x00FF4000 = some .readLcdc ∧ decodeTableWord 32 0x00FF4200 = some .readScx ∧
      decodeTableWord 32 0x00FF4300 = some .readScy ∧ decodeTableWord 32 0x00FF4400 = some .readLy ∧
      decodeTableWord 32 0x00FF4700 = some .readBgp := by decide

theorem test_decode_write_registers :
    decodeTableWord 32 0x40FF4091 = some (.writeLcdc 0x91) ∧
      decodeTableWord 32 0x40FF42FC = some (.writeScx 0xFC) ∧
      decodeTableWord 32 0x40FF43C8 = some (.writeScy 0xC8) ∧
      decodeTableWord 32 0x40FF444D = some (.writeLy 0x4D) ∧
      decodeTableWord 32 0x40FF47E4 = some (.writeBgp 0xE4) := by decide

theorem test_decode_unmapped :
    decodeTableWord 32 0x00A00000 = some (.readUnmapped 0xA000) ∧
      decodeTableWord 32 0x007FFF00 = some (.readUnmapped 0x7FFF) ∧
      decodeTableWord 32 0x00FEA000 = some (.readUnmapped 0xFEA0) ∧
      decodeTableWord 32 0x40FF4591 = some (.writeUnmapped 0xFF45 0x91) := by decide

theorem test_decode_advance_and_frame :
    decodeTableWord 32 0b10000000000000000000000011001100 = some (.advance 204) ∧
      decodeTableWord 32 0xBFFFFFFF = some (.advance 1073741823) ∧
      decodeTableWord 32 0xC0000000 = some .readFrame := by decide

theorem test_decode_refuses_reserved_words :
    decodeTableWord 32 0x00FF4001 = none ∧ decodeTableWord 32 0x01FF4000 = none ∧
      decodeTableWord 32 0x41FF4000 = none ∧ decodeTableWord 32 0xC0000001 = none := by decide

/-! ### Video memory (2.2) -/

theorem test_readVram : (after (after State.reset 0x408000AB) 0x00800000).result =
    some (.data 0xAB) := by decide

theorem test_writeVram_in_vramTransfer :
    (after (at' .vramTransfer 0 0 false) 0x40800055).vram.read 0 = 0x55 ∧
      (after State.reset 0x409FFF01).vram.read 0x1FFF = 0x01 := by decide

theorem test_readOam_in_oamSearch :
    (after (at' .oamSearch 0 0 false) 0x00FE1000).result = some (.data 0x00) := by decide

theorem test_writeOam : (after State.reset 0x40FE9F7E).oam.read 0x9F = 0x7E ∧
    (after State.reset 0x40FE9F7E).vram = State.reset.vram := by decide

/-! ### Register bank (2.4) -/

theorem test_writeLcdc : (after State.reset 0x40FF4091).lcdc =
    { lcdEnable := true, windowTileMap := .set0, windowEnable := false, bgwTileData := .set1,
      bgTileMap := .set0, spriteSize := .size8x8, spriteEnable := false, bgEnable := true } := by
  decide

theorem test_readLcdc : (after (after State.reset 0x40FF4091) 0x00FF4000).result =
    some (.data 0x91) := by decide

theorem test_writeScx : (after State.reset 0x40FF4221).pos.scrollX = 0x21 ∧
    (after State.reset 0x40FF4221).pos.scrollY = 0 := by decide

theorem test_readScx : (after (after State.reset 0x40FF42FC) 0x00FF4200).result =
    some (.data 0xFC) := by decide

theorem test_writeScy : (after State.reset 0x40FF4310).pos.scrollY = 0x10 := by decide

theorem test_readScy : (after (after State.reset 0x40FF4310) 0x00FF4300).result =
    some (.data 0x10) := by decide

theorem test_writeLy : view (after (at' .vblank 7 150 true) 0x40FF440A) = (.vblank, 7, 10, true) := by
  decide

theorem test_readLy : (after (after State.reset 0x40FF444D) 0x00FF4400).result =
    some (.data 0x4D) := by decide

theorem test_readBgp : (after State.reset 0x00FF4700).result =
    some (.error .writeToReadOnly 0xFF47) := by decide

theorem test_writeBgp : after State.reset 0x40FF47E4 = State.reset.reply .ok := by decide

theorem test_readUnmapped : (after State.reset 0x00FF4A00).result =
    some (.error .unmappedAddress 0xFF4A) := by decide

theorem test_writeUnmapped : after State.reset 0x40FF4140 =
    State.reset.reply (.error .unmappedAddress 0xFF41) := by decide

theorem test_statByte :
    (at' .hblank 0 0 false).statByte = 0x00 ∧ (at' .vramTransfer 0 0 false).statByte = 0x03 ∧
      (LcdStatus.decode 0xFF).1.encode .vramTransfer = 0x7B ∧
      (LcdStatus.decode 0x84).1.encode .hblank = 0x00 := by decide

/-! ### Pixel decoder (2.3, and S1 of 1) -/

theorem test_decodeTilePixel_msb_first :
    decodeTilePixel [(0, 0x80)] .set0 0 0 = 1 ∧ decodeTilePixel [(0, 0x80)] .set0 0 7 = 0 ∧
      decodeTilePixel [(1, 0x80)] .set0 0 0 = 2 := by decide

theorem test_decodeTilePixel_tile_bases :
    decodeTilePixel [(0x1E, 0xFF), (0x1F, 0xFF)] .set0 1 63 = 3 ∧
      decodeTilePixel [(0x800, 0x80)] .set1 0 0 = 1 ∧
      decodeTilePixel [(0x17FF, 0x01)] .set1 255 63 = 2 ∧
      decodeTilePixel [(0xFFE, 0x01)] .set0 255 63 = 1 := by decide

theorem test_decodeTile_rows :
    (decodeTile [(0, 0xF0), (1, 0xCC)] .set0 0).take 8 = [3, 3, 1, 1, 2, 2, 0, 0] ∧
      decodeTile [(0, 0x5A), (1, 0x3C)] .set0 0 =
        [0, 1, 2, 3, 3, 2, 1, 0] ++ List.replicate 56 0 := by decide

/-! ### Renderer (2.5 and P2 of 3) -/

theorem test_render_row_stride :
    rendered { at' .oamSearch 0 8 false with vram := [(0x10, 0xFF), (0x11, 0xFF), (0x1820, 1)] }
      [7, 8] = [black, white] := by decide +kernel

theorem test_render_vertical_wrap :
    rendered { at' .oamSearch 0 100 false with
      vram := [(0x18, 0xFF), (0x18A0, 1)], pos := ⟨0, 200, 0, 0⟩ } [7, 8] = [light, white] := by
  decide +kernel

theorem test_render_horizontal_wrap :
    rendered { at' .oamSearch 0 1 false with
      vram := [(0x22, 0xFF), (0x33, 0xFF), (0x1800, 3), (0x181F, 2)], pos := ⟨252, 0, 0, 0⟩ }
      [3, 4, 12] = [light, dark, white] := by decide +kernel

theorem test_render_set1_map_and_data :
    rendered { at' .oamSearch 0 0 false with
      vram := [(0x800, 0xFF), (0x801, 0xFF), (0x810, 0xFF), (0x1C00, 1)],
      lcdc := LcdControl.decode 0x18 } [7, 8] = [light, black] := by decide +kernel

/-! ### Timing (2.6) -/

theorem test_advance_thresholds :
    view (after (at' .oamSearch 0 5 false) 0x8000004F) = (.oamSearch, 79, 5, false) ∧
      view (after (at' .oamSearch 70 5 false) 0x800003E8) = (.vramTransfer, 0, 5, false) ∧
      view (after (at' .hblank 0 142 false) 0x800000CC) = (.oamSearch, 0, 143, false) ∧
      view (after (at' .hblank 0 143 false) 0x800000CC) = (.vblank, 0, 144, true) ∧
      view (after (at' .vblank 0 150 true) 0x800001C8) = (.vblank, 0, 151, true) ∧
      view (after (at' .vblank 0 255 true) 0x800001C8) = (.oamSearch, 0, 0, true) := by decide

theorem test_advance_faults :
    after (at' .hblank 0 255 false) 0x800000CC =
        (at' .hblank 0 255 false).enterFault .lineCounterOverflow ∧
      after (at' .vramTransfer 0 144 false) 0x800000AC =
        (at' .vramTransfer 0 144 false).enterFault .renderRowOutOfRange ∧
      view (after (at' .hblank 100 255 false) 0x80000067) = (.hblank, 203, 255, false) := by decide

/-! ### Frame read (2.7), faulted block and verdict (2.8) -/

theorem test_readFrame :
    after { at' .vblank 0 144 true with fb := [(3, white)] } 0xC0000000 =
      { at' .vblank 0 144 false with
        fb := [(3, white)], result := some (.frame [(3, white)]) } := by decide

/-- A state faulted with `LineCounterOverflow`. -/
def faultedState : State := (at' .hblank 0 255 true).enterFault .lineCounterOverflow

theorem test_faulted_precedence :
    (after faultedState 0x00FF4001).result = some .illegalCommand ∧
      (after faultedState 0x00FF4100).result = some (.faulted .lineCounterOverflow) ∧
      (after faultedState 0x00FF4700).result = some (.faulted .lineCounterOverflow) ∧
      (after faultedState 0xC0000000).vblankPending = true := by decide

/-! ### Memory: the canonical form -/

theorem test_memory_writing_the_default_removes_the_entry :
    (Memory.write [(3, 7), (9, 1)] 3 0) = [(9, 1)] ∧
      (Memory.write [(3, 7), (9, 1)] 5 2) = [(3, 7), (5, 2), (9, 1)] := by decide

/-! ### Textual form (3) -/

theorem test_assemble :
    assembleLine "Wr LCDC, 0x91".toList = some [0x40FF4091#32] ∧
      assembleLine "rd 0xFEA0".toList = some [0x00FEA000#32] ∧
      assembleLine "adv 1073741824".toList = none := by decide

/-! ### Witnesses: states and operands that meet the hypotheses of each statement, at the edges -/

/-- `at'` with one command pending. -/
def withCommand (s : State) (w : Word) : State := { s with pending := [w] }

theorem witness_StepRunsTheDecodedCommand :
    (withCommand State.reset 0x800000CC#32).pending = 0x800000CC#32 :: [] ∧
      decode 0x800000CC#32 = .ok (.advance 204) ∧ State.reset.pending = [] := ⟨rfl, rfl, rfl⟩

theorem witness_ReservedWordAnswersIllegalCommand :
    (withCommand faultedState 0xFFFFFFFF#32).pending = 0xFFFFFFFF#32 :: [] ∧
      decode 0xFFFFFFFF#32 = .error .illegalCommand ∧
      decode 0x00FF4001#32 = .error .illegalCommand ∧
      decode 0x41FF4000#32 = .error .illegalCommand := ⟨rfl, rfl, rfl, rfl⟩

theorem witness_DecodeOfEncodeIsTheTransaction :
    Instr.wellFormed (.readVram 0x9FFF) = true ∧ Instr.wellFormed (.writeOam 0xFE9F 0xFF) = true ∧
      Instr.wellFormed (.writeUnmapped 0xFEA0 1) = true ∧ Instr.wellFormed (.readUnmapped 0) = true ∧
      Instr.wellFormed (.advance 1073741823) = true ∧ Instr.wellFormed .readFrame = true := by decide

theorem witness_EncodeOfDecodeIsTheWord :
    decode 0xBFFFFFFF#32 = .ok (.advance 1073741823) ∧
      decode 0x40FFFFFF#32 = .ok (.writeUnmapped 0xFFFF 0xFF) := ⟨rfl, rfl⟩

theorem witness_DecodedWordMatchesItsOpcodeRow :
    decode 0x009FFF00#32 = .ok (.readVram 0x9FFF) ∧ decode 0x00FF4700#32 = .ok .readBgp := ⟨rfl, rfl⟩

theorem witness_AddressSelectsTheTransaction :
    (0x7FFF#16).toNat < 0x8000 ∧
      (0x8000 ≤ (0x8000#16).toNat ∧ (0x9FFF#16).toNat ≤ 0x9FFF ∧ 0x9FFF < (0xA000#16).toNat) ∧
      (0xFE00 ≤ (0xFE00#16).toNat ∧ (0xFE9F#16).toNat ≤ 0xFE9F ∧ 0xFE9F < (0xFEA0#16).toNat) ∧
      1073741823 < 2 ^ 30 := by decide

theorem witness_ReadVramReturnsTheStoredByte :
    0x8000 ≤ (0x8000#16).toNat ∧ (0x8000#16).toNat ≤ 0x9FFF ∧ 0x8000 ≤ (0x9FFF#16).toNat ∧
      (0x9FFF#16).toNat ≤ 0x9FFF ∧ (at' .vramTransfer 3 9 true).fault = none := by decide

theorem witness_WriteVramStoresTheByte :
    0x8000 ≤ (0x8000#16).toNat ∧ (0x8000#16).toNat ≤ 0x9FFF ∧ 0x8000 ≤ (0x9FFF#16).toNat ∧
      (0x9FFF#16).toNat ≤ 0x9FFF ∧ State.reset.fault = none ∧ 0 ≠ vramOffset 0x9FFF := by decide

theorem witness_ReadOamReturnsTheStoredByte :
    0xFE00 ≤ (0xFE00#16).toNat ∧ (0xFE9F#16).toNat ≤ 0xFE9F ∧ 0xFEA0 ≤ (0xFEA0#16).toNat ∧
      (0xFEFF#16).toNat ≤ 0xFEFF ∧ (at' .oamSearch 0 0 false).fault = none := by decide

theorem witness_WriteOamStoresTheByte :
    0xFE00 ≤ (0xFE9F#16).toNat ∧ (0xFE9F#16).toNat ≤ 0xFE9F ∧ 0xFEA0 ≤ (0xFEA0#16).toNat ∧
      (0xFEA0#16).toNat ≤ 0xFEFF ∧ State.reset.fault = none ∧ 0 ≠ oamOffset 0xFE9F := by decide

theorem witness_OffsetOutsideItsStoreIsRefused :
    State.reset.fault = none ∧ inVramWindow 0xA000 = false ∧ inVramWindow 0x7FFF = false ∧
      inOamWindow 0xFEA0 = false ∧ inOamWindow 0xFDFF = false := by decide

/-! The one hypothesis of the register statements is that there is no fault. -/

theorem witness_LcdcReadsAndWritesItsFields : (at' .vramTransfer 171 143 true).fault = none := rfl

theorem witness_ScrollRegistersReadAndWrite : (at' .oamSearch 79 0 false).fault = none := rfl

theorem witness_LyReadsAndOverwritesTheLine : (at' .vblank 455 255 true).fault = none := rfl

theorem witness_BgpReadFailsAndWriteIsDiscarded : (at' .hblank 203 254 true).fault = none := rfl

theorem witness_UnmappedAccessIsAnError :
    isUnmapped 0x7FFF = true ∧ isUnmapped 0xA000 = true ∧ isUnmapped 0xFDFF = true ∧
      isUnmapped 0xFEA0 = true ∧ isUnmapped 0xFF3F = true ∧ isUnmapped 0xFF41 = true ∧
      isUnmapped 0xFF46 = true ∧ isUnmapped 0xFF48 = true ∧ isUnmapped 0xFFFF = true ∧
      State.reset.fault = none := by decide

/-- A state that meets the invariant, with the memories not empty and the counter at its largest. -/
def busyState : State :=
  { at' .vramTransfer 171 143 true with
    vram := [(0, 0x80), (0x1FFF, 1)], oam := [(0x9F, 2)], fb := [(0, white), (23039, dark)],
    pos := ⟨255, 255, 0, 0⟩, lcdc := LcdControl.decode 0xFF }

theorem busyState_inv : busyState.Inv :=
  ⟨by decide, by decide, by decide, by decide, by decide, by decide, by decide⟩

theorem witness_StatCodecMirrorsTheMode : busyState.Inv := busyState_inv

theorem witness_PixelOrdinalIsItsPlaneBits : 7 < 8 ∧ (127#8).toNat < 128 := by decide

theorem witness_PixelAndTileDecodersAgree : 63 < 64 := by decide

theorem witness_ColourMapIsFixed : toRgb 3 = toRgb 3 := rfl

theorem witness_RenderDrawsTheBackgroundRow :
    busyState.line.toNat ≤ 143 ∧ 159 < 160 ∧ 143 * 160 - 1 < busyState.line.toNat * 160 := by decide

/-- A state that agrees with `busyState` on the renderer's inputs and on nothing else. -/
def otherState : State :=
  { busyState with
    mode := .hblank, cycleCounter := 9, vblankPending := false, oam := [],
    lcdc := LcdControl.decode 0x18, stat := ⟨true, true, true, true, true⟩,
    pos := ⟨255, 255, 1, 1⟩, fb := [], fault := some .lineCounterOverflow }

theorem witness_RendererReadsOnlyItsInputs :
    otherState.line = busyState.line ∧ otherState.pos.scrollX = busyState.pos.scrollX ∧
      otherState.pos.scrollY = busyState.pos.scrollY ∧
      otherState.lcdc.bgTileMap = busyState.lcdc.bgTileMap ∧
      otherState.lcdc.bgwTileData = busyState.lcdc.bgwTileData ∧ otherState.vram = busyState.vram ∧
      otherState ≠ busyState := by decide

theorem witness_OamSearchEndsAt80 :
    (at' .oamSearch 79 5 false).fault = none ∧ (at' .oamSearch 79 5 false).mode = .oamSearch ∧
      80 ≤ (at' .oamSearch 79 5 false).cycleCounter + 1 := by decide

theorem witness_VramTransferEndsAt172 :
    busyState.fault = none ∧ busyState.mode = .vramTransfer ∧ 172 ≤ busyState.cycleCounter + 1 ∧
      busyState.line.toNat ≤ 143 := by decide

theorem witness_HblankEndsAt204 :
    (at' .hblank 203 143 false).fault = none ∧ (at' .hblank 203 143 false).mode = .hblank ∧
      204 ≤ (at' .hblank 203 143 false).cycleCounter + 1 ∧
      (at' .hblank 203 143 false).line = 143#8 ∧ (at' .hblank 203 142 false).line ≠ 143#8 ∧
      (at' .hblank 203 254 false).line ≠ 255#8 := by decide

theorem witness_VblankLineEndsAt456 :
    (at' .vblank 455 152 true).fault = none ∧ (at' .vblank 455 152 true).mode = .vblank ∧
      456 ≤ (at' .vblank 455 152 true).cycleCounter + 1 ∧
      (at' .vblank 455 152 true).line.toNat + 1 ≤ 153 ∧
      153 < (at' .vblank 455 153 true).line.toNat + 1 := by decide

theorem witness_BelowTheThresholdOnlyTheCounterMoves :
    (at' .oamSearch 0 0 false).fault = none ∧ (at' .oamSearch 0 0 false).cycleCounter + 79 < 80 ∧
      (at' .vramTransfer 0 0 false).cycleCounter + 171 < 172 ∧
      (at' .hblank 0 0 false).cycleCounter + 203 < 204 ∧
      (at' .vblank 0 144 true).cycleCounter + 455 < 456 := by decide

theorem witness_OutOfRangeLinesFault :
    (at' .hblank 0 255 false).fault = none ∧ 204 ≤ (at' .hblank 0 255 false).cycleCounter + 204 ∧
      (at' .hblank 0 255 false).line = 255#8 ∧
      172 ≤ (at' .vramTransfer 0 144 false).cycleCounter + 172 ∧
      144 ≤ (at' .vramTransfer 0 144 false).line.toNat ∧
      144 ≤ (at' .hblank 0 144 false).line.toNat ∧ (at' .hblank 0 254 false).line.toNat ≤ 254 := by
  decide

theorem advance_notWriteLy (s : State) : (withCommand s 0x800000CC#32).NextIsNotWriteLy := by
  intro w rest d h
  obtain ⟨rfl, -⟩ : 0x800000CC#32 = w ∧ [] = rest := by simpa [withCommand] using h
  simp [show decode 0x800000CC#32 = .ok (.advance 204) from rfl]

theorem witness_LineBeyond143NeverEntersVblank :
    (withCommand (at' .hblank 0 144 false) 0x800000CC#32).mode ≠ .vblank ∧
      144 ≤ (withCommand (at' .hblank 0 144 false) 0x800000CC#32).line.toNat ∧
      (withCommand (at' .hblank 0 144 false) 0x800000CC#32).NextIsNotWriteLy ∧
      ∃ t, step (withCommand (at' .hblank 0 144 false) 0x800000CC#32) = .next t :=
  ⟨by decide, by decide, advance_notWriteLy _, _, rfl⟩

theorem witness_AdvanceFaultsExactlyInTheTwoCases : (at' .hblank 0 255 false).fault = none := rfl

theorem witness_SurplusCyclesAreLost :
    (at' .oamSearch 70 5 false).fault = none ∧
      (at' .oamSearch 70 5 false).cycleCounter < threshold (at' .oamSearch 70 5 false).mode ∧
      threshold (at' .oamSearch 70 5 false).mode ≤ (at' .oamSearch 70 5 false).cycleCounter + 1000 ∧
      (after (at' .oamSearch 70 5 false) 0x800003E8).fault = none := by decide

theorem witness_DeltasAddUpToTheThreshold :
    (at' .hblank 1 5 false).fault = none ∧
      (at' .hblank 1 5 false).cycleCounter + [100, 0, 102].sum < threshold .hblank ∧
      threshold .hblank ≤ (at' .hblank 1 5 false).cycleCounter + [100, 0, 102].sum + 1 ∧
      ∃ u, exec (.advance 1) { at' .hblank 203 5 false with result := some .ok } = .next u ∧
        u.fault = none := ⟨by decide, by decide, by decide, _, rfl, rfl⟩

theorem witness_AdvlineRendersOneVisibleLine :
    (at' .oamSearch 0 143 false).fault = none ∧ (at' .oamSearch 0 143 false).mode = .oamSearch ∧
      (at' .oamSearch 0 143 false).cycleCounter = 0 ∧
      (at' .oamSearch 0 143 false).line.toNat ≤ 143 ∧
      (at' .oamSearch 0 142 false).line.toNat < 143 := by decide

theorem witness_FrameVisitsEveryLine :
    (at' .oamSearch 0 0 false).fault = none ∧ (at' .oamSearch 0 0 false).mode = .oamSearch ∧
      (at' .oamSearch 0 0 false).cycleCounter = 0 ∧ (at' .oamSearch 0 0 false).line = 0#8 ∧
      431 < 432 ∧ 432 ≤ 441 ∧ 441 < 442 ∧ 442 ≤ 442 := by decide

theorem witness_FrameDrawsTheWholeBackground :
    (at' .oamSearch 0 0 true).fault = none ∧ (at' .oamSearch 0 0 true).mode = .oamSearch ∧
      (at' .oamSearch 0 0 true).cycleCounter = 0 ∧ (at' .oamSearch 0 0 true).line = 0#8 := by decide

theorem witness_ReadFrameAnswersTheFrameAndClearsTheFlag :
    busyState.fault = none ∧ State.reset.fault = none ∧ State.reset.vblankPending = false := by
  decide

theorem witness_FaultedBlockAnswersFaulted : faultedState.fault = some .lineCounterOverflow := rfl

theorem witness_FaultIsNeverCleared :
    (withCommand faultedState 0xC0000000#32).fault = some .lineCounterOverflow ∧
      ∃ t, step (withCommand faultedState 0xC0000000#32) = .next t := ⟨rfl, _, rfl⟩

theorem witness_OnlyAdvanceRaisesAFault :
    ∃ t, exec (.advance 204) (at' .hblank 0 255 false) = .next t ∧
      (at' .hblank 0 255 false).fault = none ∧ t.fault = some .lineCounterOverflow :=
  ⟨_, rfl, rfl, rfl⟩

theorem witness_OnlyAdvanceChangesModeAndCounter :
    (∃ t, exec (.advance 1) State.reset = .next t ∧ t.cycleCounter ≠ State.reset.cycleCounter) ∧
      (∃ t, exec (.advance 80) (at' .oamSearch 0 0 false) = .next t ∧
        t.mode ≠ (at' .oamSearch 0 0 false).mode) ∧
      (∃ t, exec (.writeLy 7) State.reset = .next t ∧ t.line ≠ State.reset.line) :=
  ⟨⟨_, rfl, by decide⟩, ⟨_, rfl, by decide⟩, ⟨_, rfl, by decide⟩⟩

theorem witness_VblankFlagChangesOnlyAtItsTwoEvents :
    (∃ t, exec (.advance 204) (at' .hblank 0 143 false) = .next t ∧ t.vblankPending = true) ∧
      (∃ t, exec .readFrame (at' .vblank 0 144 true) = .next t ∧ t.vblankPending = false) :=
  ⟨⟨_, rfl, rfl⟩, ⟨_, rfl, rfl⟩⟩

theorem witness_OnlyARenderChangesTheFrameBuffer :
    (after (at' .vramTransfer 0 143 false) 0x800000AC).fb ≠ (at' .vramTransfer 0 143 false).fb ∧
      143 * 160 + 160 ≤ 23040 := by decide +kernel

theorem witness_OamAndVramNeverAlias :
    (∃ t, exec (.writeOam 0xFE00 1) State.reset = .next t ∧ t.oam ≠ State.reset.oam) ∧
      (∃ t, exec (.writeVram 0x9FFF 1) State.reset = .next t ∧ t.vram ≠ State.reset.vram) :=
  ⟨⟨_, rfl, by decide⟩, ⟨_, rfl, by decide⟩⟩

theorem witness_ErrorsChangeNothing :
    (∃ t, exec .readBgp busyState = .next t ∧
        t.result = some (.error .writeToReadOnly 0xFF47#16)) ∧
      (∃ t, exec (.writeUnmapped 0xFFFF 1) busyState = .next t ∧
        t.result = some (.error .unmappedAddress 0xFFFF#16)) :=
  ⟨⟨_, rfl, rfl⟩, ⟨_, rfl, rfl⟩⟩

theorem witness_ReadsHaveNoEffectAndWritesAreIdempotent :
    (isBusRead (.readOam 0xFE9F) = true ∧ ∃ t, exec (.readOam 0xFE9F) busyState = .next t) ∧
      (isBusWrite (.writeLy 255) = true ∧ ∃ t, exec (.writeLy 255) busyState = .next t) ∧
      busyState.fault = none := ⟨⟨rfl, _, rfl⟩, ⟨rfl, _, rfl⟩, rfl⟩

theorem witness_ReadReturnsTheLatestWrite :
    busyState.fault = none ∧ (isUnmapped 0x8000 = false ∧ 0x8000#16 ≠ 0xFF47#16) ∧
      isUnmapped 0xFF47 = false := by decide

theorem witness_AccessesIgnoreTheMode :
    isBusRead (.readVram 0x8000) = true ∧ isBusWrite (.writeOam 0xFE9F 3) = true ∧
      (∃ t, exec (.readVram 0x8000) busyState = .next t) ∧
      ∃ t, exec (.writeOam 0xFE9F 3) busyState = .next t := ⟨rfl, rfl, ⟨_, rfl⟩, _, rfl⟩

theorem witness_AdvanceIgnoresInertState :
    (LcdControl.decode 0xE7).bgTileMap = State.reset.lcdc.bgTileMap ∧
      (LcdControl.decode 0xE7).bgwTileData = State.reset.lcdc.bgwTileData ∧
      ∃ t, exec (.advance 204) State.reset = .next t := ⟨by decide, by decide, _, rfl⟩

theorem witness_StepKeepsTheInvariant :
    (withCommand busyState 0x80000001#32).Inv ∧
      ∃ t, step (withCommand busyState 0x80000001#32) = .next t :=
  ⟨⟨by decide, by decide, by decide, by decide, by decide, by decide, by decide⟩, _, rfl⟩

theorem witness_StepKeepsTheLineInRange :
    (withCommand (at' .vblank 0 153 true) 0x800000CC#32).LineInRange ∧
      (withCommand (at' .hblank 0 143 false) 0x800000CC#32).LineInRange ∧
      (withCommand (at' .hblank 0 143 false) 0x800000CC#32).NextIsNotWriteLy ∧
      ∃ t, step (withCommand (at' .hblank 0 143 false) 0x800000CC#32) = .next t :=
  ⟨⟨by decide, by decide, by decide⟩, ⟨by decide, by decide, by decide⟩, advance_notWriteLy _, _, rfl⟩

end Sys2Proof.Tests
end

section
/-! The frame of the timing triple of R21: which transactions can change the mode, the counter and the
line. -/

namespace Sys2Proof.Machine

/-- R21's frame of `mode` and `cycle_counter`: the fields only `Advances` can change. -/
theorem Moves.advance_or_mode_cycleCounter_eq {i : Instr} {s t : State} (h : Moves s i t) :
    (∃ delta, i = .advance delta) ∨ (t.mode = s.mode ∧ t.cycleCounter = s.cycleCounter) := by
  cases h with
  | advance delta => exact .inl ⟨delta, rfl⟩
  | _ => exact .inr ⟨rfl, rfl⟩

/-- R21's frame of `line`: WRITE_LY is the one bus access that reaches the timing triple. -/
theorem Moves.advance_or_writeLy_or_line_eq {i : Instr} {s t : State} (h : Moves s i t) :
    (∃ delta, i = .advance delta) ∨ (∃ d, i = .writeLy d) ∨ t.line = s.line := by
  cases h with
  | advance delta => exact .inl ⟨delta, rfl⟩
  | writeLy d => exact .inr (.inl ⟨d, rfl⟩)
  | _ => exact .inr (.inr rfl)

/-- Settles O45, from the two frames and the WRITE_LY case of `Moves`. -/
theorem onlyAdvanceChangesModeAndCounter : Obligations.OnlyAdvanceChangesModeAndCounter := by
  refine ⟨fun i s t h => ⟨fun hchanged => ?_, fun hline => ?_⟩,
    fun s d hf => exec_of_moves (.writeLy d hf)⟩
  · rcases (exec_moves h).advance_or_mode_cycleCounter_eq with hadv | ⟨hmode, hcounter⟩
    · exact hadv
    · exact absurd hchanged (not_or.mpr ⟨not_not.mpr hmode, not_not.mpr hcounter⟩)
  · rcases (exec_moves h).advance_or_writeLy_or_line_eq with hadv | hwrite | heq
    · exact .inl hadv
    · exact .inr hwrite
    · exact absurd heq hline

end Sys2Proof.Machine
end

section
/-! R57: a bus read leaves its answer and nothing else, and a bus access carried out again in the state it
answered answers that same state. -/

namespace Sys2Proof.Machine

/-- No answer depends on the answer before it. -/
theorem Answers.reply {i : Instr} {s : State} {r : Result} (h : Answers s i r) (r' : Result) :
    Answers (s.reply r') i r := by
  cases h with
  | readVram a h => exact .readVram a h
  | readOam a h => exact .readOam a h
  | _ => constructor

/-- The frame of a bus read: only the two cases of `Moves` that answer and move nothing are left. -/
theorem Moves.busRead_eq_reply {i : Instr} {s t : State} (h : Moves s i t) (hi : isBusRead i = true) :
    ∃ r, t = s.reply r := by
  cases h with
  | faulted i k => exact ⟨.faulted k, rfl⟩
  | answers i r => exact ⟨r, rfl⟩
  | _ => cases hi

/-- Idempotence in `Moves`: a register write sets the field to a value that the state does not enter, and a
store write is `Memory.write_write`. -/
theorem Moves.repeats {i : Instr} {s t : State} (h : Moves s i t)
    (hi : isBusRead i = true ∨ isBusWrite i = true) : Moves t i t := by
  cases h with
  | faulted i k hf => exact .faulted (s := s.reply (.faulted k)) i k hf
  | answers i r hf h => exact .answers (s := s.reply r) i r hf (h.reply r)
  | writeVram a d hf h =>
    have again := Moves.writeVram
      (s := { s with vram := s.vram.write (vramOffset a) d }.reply .ok) a d hf h
    rwa [State.reply_vram, Memory.write_write] at again
  | writeOam a d hf h =>
    have again := Moves.writeOam
      (s := { s with oam := s.oam.write (oamOffset a) d }.reply .ok) a d hf h
    rwa [State.reply_oam, Memory.write_write] at again
  | writeLcdc d hf => exact .writeLcdc (s := { s with lcdc := LcdControl.decode d }.reply .ok) d hf
  | writeScx d hf =>
    exact .writeScx (s := { s with pos := { s.pos with scrollX := d } }.reply .ok) d hf
  | writeScy d hf =>
    exact .writeScy (s := { s with pos := { s.pos with scrollY := d } }.reply .ok) d hf
  | writeLy d hf => exact .writeLy (s := { s with line := d }.reply .ok) d hf
  | advance => cases hi <;> contradiction
  | readFrame => cases hi <;> contradiction

/-- A bus access that answered answers the same again, in the state it left. -/
theorem exec_repeats {i : Instr} {s t : State} (hi : isBusRead i = true ∨ isBusWrite i = true)
    (h : exec i s = .next t) : exec i t = .next t :=
  exec_of_moves ((exec_moves h).repeats hi)

/-- Settles O50, from the frame of a bus read, the repetition of an access, and the cases of `Moves` for
READ_FRAME and BGP. -/
theorem readsHaveNoEffectAndWritesAreIdempotent :
    Obligations.ReadsHaveNoEffectAndWritesAreIdempotent := by
  refine ⟨fun i s t hi h => ⟨?_, exec_repeats (.inl hi) h⟩,
    fun i s t hi h => exec_repeats (.inr hi) h,
    fun s hf => exec_of_moves (.readFrame hf),
    fun s d hf => ⟨exec_of_answers hf .readBgp, exec_of_answers hf (.writeBgp d)⟩⟩
  obtain ⟨r, rfl⟩ := (exec_moves h).busRead_eq_reply hi
  rfl

end Sys2Proof.Machine
end

section
/-! R86: the colour map is one to one, so a frame buffer's triple determines the ordinal drawn. -/

namespace Sys2Proof.Machine

/-- R86's map loses no ordinal: the sixteen pairs of ordinals, compared triple by triple. -/
theorem toRgb_injective : Function.Injective toRgb := by decide

/-- Settles O24: R86's table is the four cases of `toRgb`, and the rest is its injectivity. -/
theorem colourMapIsFixed : Obligations.ColourMapIsFixed :=
  ⟨rfl, rfl, rfl, rfl, fun _ _ h => toRgb_injective h⟩

end Sys2Proof.Machine
end

section
/-! R100: the READ word of a VRAM address is decoded to READ_VRAM, which answers the stored byte. -/

namespace Sys2Proof.Machine

/-- R73 under R76: no READ word is reserved, so R77's READ column alone decides. -/
theorem decode_readWord (a : Addr) : decode (readWord a) = .ok (decodeRead a) := by
  simp [decode]

/-- R77's first READ row, with its pattern read as the window of R51. -/
theorem decodeRead_of_vramWindow {a : Addr} (h : 0x8000 ≤ a.toNat ∧ a.toNat ≤ 0x9FFF) :
    decodeRead a = .readVram a :=
  if_pos ((vramPattern_iff a).mpr h)

/-- Settles O10, from the decoder's first READ row, the row pattern of READ_VRAM and its case of
`Answers`. -/
theorem readVramReturnsTheStoredByte : Obligations.ReadVramReturnsTheStoredByte := by
  intro a hlo hhi
  refine ⟨?_, ?_, fun s hf => ?_⟩
  · rw [decode_readWord, decodeRead_of_vramWindow ⟨hlo, hhi⟩]
  · have hwindow : inVramWindow a = true := by simp [inVramWindow, hlo, hhi]
    exact Laws.RowPattern.readVram a hwindow
  · rw [← vramOffset_eq hlo]
    exact exec_of_answers hf (.readVram a ((vramOffset_lt_iff a).mpr ⟨hlo, hhi⟩))

end Sys2Proof.Machine
end

section
/-! R70 to R77: the decoder and the encoder are inverse to each other on legal words and well-formed
transactions, and R76's reserved words are what is left. -/

namespace Sys2Proof.Machine

/-! ### What each format decodes to -/

/-- R74 under R76: no WRITE word is reserved, so R77's WRITE column alone decides. -/
theorem decode_writeWord (a : Addr) (d : Byte) : decode (writeWord a d) = .ok (decodeWrite a d) := by
  simp [decode]

/-- R72: the 30 bits of the word hold the delta. -/
theorem decode_advanceWord {n : Nat} (h : n < 2 ^ 30) : decode (advanceWord n) = .ok (.advance n) := by
  have hmod : n % 1073741824 = n := Nat.mod_eq_of_lt h
  simp [decode, hmod]

theorem decode_frameWord : decode frameWord = .ok .readFrame := rfl

/-! ### Every word has one of the four formats -/

/-- R71: the two kind bits select the kind. -/
theorem commandKind_cases (w : Word) :
    (w.extractLsb' 30 2 = 0b00#2 ∧ commandKind w = .read) ∨
      (w.extractLsb' 30 2 = 0b01#2 ∧ commandKind w = .write) ∨
      (w.extractLsb' 30 2 = 0b10#2 ∧ commandKind w = .advance) ∨
      (w.extractLsb' 30 2 = 0b11#2 ∧ commandKind w = .frame) := by
  have four : ∀ k : BitVec 2, k = 0b00#2 ∨ k = 0b01#2 ∨ k = 0b10#2 ∨ k = 0b11#2 := by decide
  rcases four (w.extractLsb' 30 2) with h | h | h | h <;> simp [commandKind, h]

/-- A word is its kind bits, reserved bits, address and data, as R73 and R74 lay them out. -/
theorem word_eq_busFields (w : Word) :
    w.extractLsb' 30 2 ++ reservedField w ++ addrField w ++ dataField w = w := by
  refine Laws.RowPattern.word_ext fun i hi => ?_
  simp only [reservedField, addrField, dataField, BitVec.getLsbD_append, BitVec.getLsbD_extractLsb']
  interval_cases i <;> simp

/-- A word is its kind bits and the 30 bits below them, as R72 and R75 lay it out. -/
theorem word_eq_deltaFields (w : Word) : w.extractLsb' 30 2 ++ deltaField w = w := by
  refine Laws.RowPattern.word_ext fun i hi => ?_
  simp only [deltaField, BitVec.getLsbD_append, BitVec.getLsbD_extractLsb']
  interval_cases i <;> simp

/-- The legal words: each is a word of one of the four formats, decoded by its format. -/
theorem decode_ok {w : Word} {i : Instr} (h : decode w = .ok i) :
    (∃ a, w = readWord a ∧ i = decodeRead a) ∨ (∃ a d, w = writeWord a d ∧ i = decodeWrite a d) ∨
      (∃ n < 2 ^ 30, w = advanceWord n ∧ i = .advance n) ∨ (w = frameWord ∧ i = .readFrame) := by
  have hbus := word_eq_busFields w
  have hdelta := word_eq_deltaFields w
  rcases commandKind_cases w with ⟨hk, hkind⟩ | ⟨hk, hkind⟩ | ⟨hk, hkind⟩ | ⟨hk, hkind⟩
  · simp only [decode, hkind] at h
    split at h
    · rename_i hlegal
      rw [hk, hlegal.1, hlegal.2] at hbus
      exact .inl ⟨addrField w, hbus.symm, (Except.ok.inj h).symm⟩
    · cases h
  · simp only [decode, hkind] at h
    split at h
    · rename_i hlegal
      rw [hk, hlegal] at hbus
      exact .inr (.inl ⟨addrField w, dataField w, hbus.symm, (Except.ok.inj h).symm⟩)
    · cases h
  · simp only [decode, hkind] at h
    refine .inr (.inr (.inl ⟨(deltaField w).toNat, (deltaField w).isLt, ?_, (Except.ok.inj h).symm⟩))
    rw [advanceWord, BitVec.ofNat_toNat, BitVec.setWidth_eq, ← hk, hdelta]
  · simp only [decode, hkind] at h
    split at h
    · rename_i hlegal
      rw [hk, hlegal] at hdelta
      exact .inr (.inr (.inr ⟨hdelta.symm, (Except.ok.inj h).symm⟩))
    · cases h

/-- Settles O4: under each kind the decoder tests the fields that R76 reserves for it. -/
theorem reservedWordsAreExactlyThese : Obligations.ReservedWordsAreExactlyThese := by
  intro w
  rcases commandKind_cases w with ⟨hk, hkind⟩ | ⟨hk, hkind⟩ | ⟨hk, hkind⟩ | ⟨hk, hkind⟩
  · by_cases hr : reservedField w = 0 <;> by_cases hd : dataField w = 0 <;>
      simp_all [decode, reservedField, dataField]
  · by_cases hr : reservedField w = 0 <;> simp_all [decode, reservedField]
  · simp_all [decode]
  · by_cases hn : deltaField w = 0 <;> simp_all [decode, deltaField]

/-! ### R77's table -/

/-- A row of R77's table: the pair of transactions of an address, under the row's condition as R51's
window. -/
inductive AddressRow (a : Addr) (d : Byte) : Instr → Instr → Prop
  | vram (h : inVramWindow a = true) : AddressRow a d (.readVram a) (.writeVram a d)
  | oam (h : inOamWindow a = true) : AddressRow a d (.readOam a) (.writeOam a d)
  | lcdc (h : a = 0xFF40#16) : AddressRow a d .readLcdc (.writeLcdc d)
  | scx (h : a = 0xFF42#16) : AddressRow a d .readScx (.writeScx d)
  | scy (h : a = 0xFF43#16) : AddressRow a d .readScy (.writeScy d)
  | ly (h : a = 0xFF44#16) : AddressRow a d .readLy (.writeLy d)
  | bgp (h : a = 0xFF47#16) : AddressRow a d .readBgp (.writeBgp d)
  | unmapped (h : isUnmapped a = true) : AddressRow a d (.readUnmapped a) (.writeUnmapped a d)

theorem inVramWindow_iff (a : Addr) :
    inVramWindow a = true ↔ 0x8000 ≤ a.toNat ∧ a.toNat ≤ 0x9FFF := by simp [inVramWindow]

theorem inOamWindow_iff (a : Addr) :
    inOamWindow a = true ↔ 0xFE00 ≤ a.toNat ∧ a.toNat ≤ 0xFE9F := by simp [inOamWindow]

/-- R52: an address is unmapped when it is under no row of R51's table. -/
theorem isUnmapped_iff (a : Addr) :
    isUnmapped a = true ↔ ¬(0x8000 ≤ a.toNat ∧ a.toNat ≤ 0x9FFF) ∧
      ¬(0xFE00 ≤ a.toNat ∧ a.toNat ≤ 0xFE9F) ∧ a.toNat ≠ 0xFF40 ∧ a.toNat ≠ 0xFF42 ∧
      a.toNat ≠ 0xFF43 ∧ a.toNat ≠ 0xFF44 ∧ a.toNat ≠ 0xFF47 := by
  rw [← inVramWindow_iff, ← inOamWindow_iff]
  simp [isUnmapped, isRegisterAddr, and_assoc]

/-- The READ column with its conditions on the number of the address. -/
theorem decodeRead_eq (a : Addr) :
    decodeRead a =
      if 0x8000 ≤ a.toNat ∧ a.toNat ≤ 0x9FFF then .readVram a
      else if 0xFE00 ≤ a.toNat ∧ a.toNat ≤ 0xFE9F then .readOam a
      else if a.toNat = 0xFF40 then .readLcdc
      else if a.toNat = 0xFF42 then .readScx
      else if a.toNat = 0xFF43 then .readScy
      else if a.toNat = 0xFF44 then .readLy
      else if a.toNat = 0xFF47 then .readBgp
      else .readUnmapped a := by
  simp only [decodeRead, vramPattern_iff, oamPattern_iff]
  simp only [← BitVec.toNat_inj, BitVec.toNat_ofNat, Nat.reducePow, Nat.reduceMod]

/-- The WRITE column with its conditions on the number of the address. -/
theorem decodeWrite_eq (a : Addr) (d : Byte) :
    decodeWrite a d =
      if 0x8000 ≤ a.toNat ∧ a.toNat ≤ 0x9FFF then .writeVram a d
      else if 0xFE00 ≤ a.toNat ∧ a.toNat ≤ 0xFE9F then .writeOam a d
      else if a.toNat = 0xFF40 then .writeLcdc d
      else if a.toNat = 0xFF42 then .writeScx d
      else if a.toNat = 0xFF43 then .writeScy d
      else if a.toNat = 0xFF44 then .writeLy d
      else if a.toNat = 0xFF47 then .writeBgp d
      else .writeUnmapped a d := by
  simp only [decodeWrite, vramPattern_iff, oamPattern_iff]
  simp only [← BitVec.toNat_inj, BitVec.toNat_ofNat, Nat.reducePow, Nat.reduceMod]

/-- R77: every address is under a row, and the decoder gives the pair of that row. -/
theorem addressRow (a : Addr) (d : Byte) : AddressRow a d (decodeRead a) (decodeWrite a d) := by
  rw [decodeRead_eq, decodeWrite_eq]
  split_ifs with hvram hoam hlcdc hscx hscy hly hbgp
  · exact .vram ((inVramWindow_iff a).mpr hvram)
  · exact .oam ((inOamWindow_iff a).mpr hoam)
  · exact .lcdc (BitVec.eq_of_toNat_eq hlcdc)
  · exact .scx (BitVec.eq_of_toNat_eq hscx)
  · exact .scy (BitVec.eq_of_toNat_eq hscy)
  · exact .ly (BitVec.eq_of_toNat_eq hly)
  · exact .bgp (BitVec.eq_of_toNat_eq hbgp)
  · exact .unmapped ((isUnmapped_iff a).mpr ⟨hvram, hoam, hlcdc, hscx, hscy, hly, hbgp⟩)

/-- The rows exclude each other: an address determines its pair of transactions. -/
theorem AddressRow.eq_decode {a : Addr} {d : Byte} {r w : Instr} (h : AddressRow a d r w) :
    r = decodeRead a ∧ w = decodeWrite a d := by
  rw [decodeRead_eq, decodeWrite_eq]
  cases h with
  | vram h => simp [(inVramWindow_iff a).mp h]
  | oam h =>
    have hrange := (inOamWindow_iff a).mp h
    have hnot : ¬(0x8000 ≤ a.toNat ∧ a.toNat ≤ 0x9FFF) := by omega
    simp [hrange, hnot]
  | unmapped h =>
    obtain ⟨hvram, hoam, hlcdc, hscx, hscy, hly, hbgp⟩ := (isUnmapped_iff a).mp h
    simp only [hvram, hoam, hlcdc, hscx, hscy, hly, hbgp, if_false, and_self]
  | lcdc h | scx h | scy h | ly h | bgp h => subst h; exact ⟨rfl, rfl⟩

/-- The words of a row's pair have the row's address and are in the operands' ranges. -/
theorem AddressRow.encode_eq {a : Addr} {d : Byte} {r w : Instr} (h : AddressRow a d r w) :
    (r.wellFormed = true ∧ encode r = readWord a) ∧
      (w.wellFormed = true ∧ encode w = writeWord a d) := by
  cases h with
  | vram h | oam h | unmapped h => exact ⟨⟨h, rfl⟩, ⟨h, rfl⟩⟩
  | lcdc h | scx h | scy h | ly h | bgp h => subst h; exact ⟨⟨rfl, rfl⟩, ⟨rfl, rfl⟩⟩

/-- The READ transaction of a row is what its word decodes to. -/
theorem AddressRow.decode_encode_read {a : Addr} {d : Byte} {r w : Instr} (h : AddressRow a d r w) :
    decode (encode r) = .ok r := by
  rw [h.encode_eq.1.2, decode_readWord, h.eq_decode.1]

/-- The WRITE transaction of a row is what its word decodes to. -/
theorem AddressRow.decode_encode_write {a : Addr} {d : Byte} {r w : Instr} (h : AddressRow a d r w) :
    decode (encode w) = .ok w := by
  rw [h.encode_eq.2.2, decode_writeWord, h.eq_decode.2]

/-! ### The round trips -/

/-- Settles O5: a READ or WRITE transaction stands in its row of R77's table, the others have a format of
their own. -/
theorem decodeOfEncodeIsTheTransaction : Obligations.DecodeOfEncodeIsTheTransaction := by
  intro i h
  cases i with
  | readVram a => exact (AddressRow.vram (d := 0) h).decode_encode_read
  | writeVram a d => exact (AddressRow.vram h).decode_encode_write
  | readOam a => exact (AddressRow.oam (d := 0) h).decode_encode_read
  | writeOam a d => exact (AddressRow.oam h).decode_encode_write
  | readLcdc => exact (AddressRow.lcdc (d := 0) rfl).decode_encode_read
  | writeLcdc d => exact (AddressRow.lcdc rfl).decode_encode_write
  | readScx => exact (AddressRow.scx (d := 0) rfl).decode_encode_read
  | writeScx d => exact (AddressRow.scx rfl).decode_encode_write
  | readScy => exact (AddressRow.scy (d := 0) rfl).decode_encode_read
  | writeScy d => exact (AddressRow.scy rfl).decode_encode_write
  | readLy => exact (AddressRow.ly (d := 0) rfl).decode_encode_read
  | writeLy d => exact (AddressRow.ly rfl).decode_encode_write
  | readBgp => exact (AddressRow.bgp (d := 0) rfl).decode_encode_read
  | writeBgp d => exact (AddressRow.bgp rfl).decode_encode_write
  | readUnmapped a => exact (AddressRow.unmapped (d := 0) h).decode_encode_read
  | writeUnmapped a d => exact (AddressRow.unmapped h).decode_encode_write
  | advance n => exact decode_advanceWord (of_decide_eq_true h)
  | readFrame => exact decode_frameWord

/-- Settles O6, from the formats of the legal words and R77's rows. -/
theorem encodeOfDecodeIsTheWord : Obligations.EncodeOfDecodeIsTheWord := by
  intro w i h
  rcases decode_ok h with ⟨a, rfl, rfl⟩ | ⟨a, d, rfl, rfl⟩ | ⟨n, hn, rfl, rfl⟩ | ⟨rfl, rfl⟩
  · exact (addressRow a 0).encode_eq.1
  · exact (addressRow a d).encode_eq.2
  · exact ⟨decide_eq_true hn, rfl⟩
  · exact ⟨rfl, rfl⟩

/-- The pattern of every row, from the lemma of its transaction. -/
theorem rowPattern (i : Instr) : Laws.RowPattern.Statement i := by
  cases i with
  | readVram a => exact Laws.RowPattern.readVram a
  | writeVram a d => exact Laws.RowPattern.writeVram a d
  | readOam a => exact Laws.RowPattern.readOam a
  | writeOam a d => exact Laws.RowPattern.writeOam a d
  | readLcdc => exact Laws.RowPattern.readLcdc
  | writeLcdc d => exact Laws.RowPattern.writeLcdc d
  | readScx => exact Laws.RowPattern.readScx
  | writeScx d => exact Laws.RowPattern.writeScx d
  | readScy => exact Laws.RowPattern.readScy
  | writeScy d => exact Laws.RowPattern.writeScy d
  | readLy => exact Laws.RowPattern.readLy
  | writeLy d => exact Laws.RowPattern.writeLy d
  | readBgp => exact Laws.RowPattern.readBgp
  | writeBgp d => exact Laws.RowPattern.writeBgp d
  | readUnmapped a => exact Laws.RowPattern.readUnmapped a
  | writeUnmapped a d => exact Laws.RowPattern.writeUnmapped a d
  | advance n => exact Laws.RowPattern.advance n
  | readFrame => exact Laws.RowPattern.readFrame

/-- Settles O7: a legal word is the encoding of its transaction, which has the row's pattern. -/
theorem decodedWordMatchesItsOpcodeRow : Obligations.DecodedWordMatchesItsOpcodeRow := by
  intro w i h
  obtain ⟨hwf, rfl⟩ := encodeOfDecodeIsTheWord w i h
  exact rowPattern i hwf

/-- Settles O8, from the two columns of R77's table, R72 and R75. -/
theorem addressSelectsTheTransaction : Obligations.AddressSelectsTheTransaction := by
  refine ⟨fun a d => ?_, fun n hn => decode_advanceWord hn, decode_frameWord⟩
  rw [decode_readWord, decode_writeWord, decodeRead_eq, decodeWrite_eq]
  split_ifs <;> rfl

/-- Settles O9: ten closed words, decoded. -/
theorem writtenOutWordsDecode : Obligations.WrittenOutWordsDecode :=
  ⟨rfl, rfl, rfl, rfl, rfl, rfl, rfl, rfl, rfl, rfl⟩

end Sys2Proof.Machine
end

section
/-! R30, R34, R184 and R186: the totality of a step, and what every step keeps. -/

namespace Sys2Proof.Machine

/-! ### Reset and stepping -/

/-- Settles O1: R35's table, with both memories and the frame buffer listing nothing. -/
theorem resetLeavesTheStatedValues : Obligations.ResetLeavesTheStatedValues :=
  ⟨rfl, rfl, rfl, rfl, fun _ => rfl, fun _ => rfl, rfl, rfl, rfl, rfl, fun _ => rfl, rfl⟩

theorem step_of_ok {s : State} {w : Word} {rest : List Word} {i : Instr} (hp : s.pending = w :: rest)
    (hd : decode w = .ok i) : step s = exec i (s.dropTo rest) := by
  simp [step, fetch_cons hp, hd]

theorem step_of_illegal {s : State} {w : Word} {rest : List Word} (hp : s.pending = w :: rest)
    (hd : decode w = .error .illegalCommand) :
    step s = .next ((s.dropTo rest).reply .illegalCommand) := by
  simp [step, fetch_cons hp, hd, refuseCommand, answer]

theorem step_of_nil {s : State} (hp : s.pending = []) : step s = .next s := by
  simp [step, fetch_nil hp, idle]

/-- Settles O2, from the two cases of the queue that run no verdict. -/
theorem stepRunsTheDecodedCommand : Obligations.StepRunsTheDecodedCommand :=
  ⟨fun _ _ _ _ hp hd => step_of_ok hp hd, fun _ hp => step_of_nil hp⟩

/-- Settles O3: the verdict comes before the faulted check (R189), so no case on the fault is made. -/
theorem reservedWordAnswersIllegalCommand : Obligations.ReservedWordAnswersIllegalCommand :=
  fun _ _ _ hp hd => step_of_illegal hp hd

/-! ### The line and its render -/

/-- Below 255 the increment of the line is exact. -/
theorem toNat_line_add_one {l : Byte} (h : l.toNat < 255) : (l + 1).toNat = l.toNat + 1 := by
  rw [BitVec.toNat_add, Nat.mod_eq_of_lt (by simpa using by omega)]
  rfl

/-- R155's exact increment, cut to a byte, is the byte's own increment. -/
theorem ofNat_line_add_one (l : Byte) : BitVec.ofNat 8 (l.toNat + 1) = l + 1 := by
  rw [BitVec.ofNat_add, BitVec.ofNat_toNat, BitVec.setWidth_eq]; rfl

/-- R146: the render refuses a line below the screen and no other. -/
theorem renderScanline_error_iff {s : State} {k : Fault} :
    renderScanline s = .error k ↔ k = .renderRowOutOfRange ∧ 144 ≤ s.line.toNat := by
  by_cases hl : 144 ≤ s.line.toNat <;> simp [renderScanline, hl, eq_comm]

/-- R156's render case: the rows of the screen end at line 143. -/
theorem renderScanline_of_ge {s : State} (hl : 144 ≤ s.line.toNat) :
    renderScanline s = .error .renderRowOutOfRange := renderScanline_error_iff.mpr ⟨rfl, hl⟩

/-- R140 on a visible line: the column loop, started at the scrolled column of the scrolled row. -/
theorem renderScanline_of_le {s : State} (hl : s.line.toNat ≤ 143) :
    renderScanline s =
      .ok (renderColumns s.vram s.lcdc.bgTileMap s.lcdc.bgwTileData
        ((s.line.toNat + s.pos.scrollY.toNat) % 256 / 8) ((s.line.toNat + s.pos.scrollY.toNat) % 8)
        (s.line.toNat * 160) 160 0 (s.pos.scrollX.toNat % 8) (s.pos.scrollX.toNat / 8)
        (s.vram.read (mapEntryOffset s.lcdc.bgTileMap
          ((s.line.toNat + s.pos.scrollY.toNat) % 256 / 8) (s.pos.scrollX.toNat / 8))) s.fb) := by
  have hvisible : ¬ 144 ≤ s.line.toNat := by omega
  simp only [renderScanline, Config.screenH_eq, Config.screenW_eq, hvisible, if_false,
    Nat.shiftRight_eq_div_pow, Nat.reducePow]

theorem line_le_of_renderScanline_ok {s : State} {fb : FrameBuffer} (h : renderScanline s = .ok fb) :
    s.line.toNat ≤ 143 := by
  by_contra hl
  rw [renderScanline_of_ge (by omega)] at h
  cases h

/-- A rendered frame buffer is canonical: the row of a visible line lies inside it. -/
theorem renderScanline_wf {s : State} {fb : FrameBuffer} (h : renderScanline s = .ok fb)
    (hs : s.fb.wf = true) : fb.wf = true := by
  have hl := line_le_of_renderScanline_ok h
  rw [renderScanline_of_le hl] at h
  exact Except.ok.inj h ▸ renderColumns_wf 160 (by omega) hs

/-! ### Totality -/

/-- R150 gives every mode, counter and line a next state. -/
theorem exists_advances (delta : Nat) (s : State) : ∃ t, Advances delta s t := by
  by_cases h : threshold s.mode ≤ s.cycleCounter + delta
  · cases hm : s.mode with
    | oamSearch => rw [hm] at h; exact ⟨_, .oamSearchEnd hm h⟩
    | vramTransfer =>
      rw [hm] at h
      cases hr : renderScanline s with
      | error k => exact ⟨_, .renderFault k hm h hr⟩
      | ok fb => exact ⟨_, .vramTransferEnd fb hm h hr⟩
    | hblank =>
      rw [hm] at h
      by_cases hl : s.line.toNat = 143
      · exact ⟨_, .vblankEntry hm h hl⟩
      · by_cases hl' : s.line.toNat = 255
        · exact ⟨_, .lineOverflow hm h hl'⟩
        · exact ⟨_, .nextLine hm h hl hl'⟩
    | vblank =>
      rw [hm] at h
      by_cases hl : 153 < s.line.toNat + 1
      · exact ⟨_, .frameWrap hm h hl⟩
      · exact ⟨_, .nextVblankLine hm h (by omega)⟩
  · exact ⟨_, .accumulate (by omega)⟩

/-- With operands in their ranges every transaction has a case of `Moves`. -/
theorem exists_moves_of_wellFormed {i : Instr} (h : i.wellFormed = true) (s : State) :
    ∃ t, Moves s i t := by
  cases hf : s.fault with
  | some k => exact ⟨_, .faulted i k hf⟩
  | none =>
    cases i with
    | readVram a =>
      exact ⟨_, .answers _ _ hf (.readVram a ((vramOffset_lt_iff a).mpr ((inVramWindow_iff a).mp h)))⟩
    | writeVram a d =>
      exact ⟨_, .writeVram a d hf ((vramOffset_lt_iff a).mpr ((inVramWindow_iff a).mp h))⟩
    | readOam a =>
      exact ⟨_, .answers _ _ hf (.readOam a ((oamOffset_lt_iff a).mpr ((inOamWindow_iff a).mp h)))⟩
    | writeOam a d =>
      exact ⟨_, .writeOam a d hf ((oamOffset_lt_iff a).mpr ((inOamWindow_iff a).mp h))⟩
    | readLcdc => exact ⟨_, .answers _ _ hf .readLcdc⟩
    | writeLcdc d => exact ⟨_, .writeLcdc d hf⟩
    | readScx => exact ⟨_, .answers _ _ hf .readScx⟩
    | writeScx d => exact ⟨_, .writeScx d hf⟩
    | readScy => exact ⟨_, .answers _ _ hf .readScy⟩
    | writeScy d => exact ⟨_, .writeScy d hf⟩
    | readLy => exact ⟨_, .answers _ _ hf .readLy⟩
    | writeLy d => exact ⟨_, .writeLy d hf⟩
    | readBgp => exact ⟨_, .answers _ _ hf .readBgp⟩
    | writeBgp d => exact ⟨_, .answers _ _ hf (.writeBgp d)⟩
    | readUnmapped a => exact ⟨_, .answers _ _ hf (.readUnmapped a)⟩
    | writeUnmapped a d => exact ⟨_, .answers _ _ hf (.writeUnmapped a d)⟩
    | advance delta =>
      obtain ⟨t, ht⟩ := exists_advances delta s
      exact ⟨t, .advance delta t hf ht⟩
    | readFrame => exact ⟨_, .readFrame hf⟩

/-- Settles O54: the one refusal is for operands that no legal word carries. -/
theorem stepAlwaysAnswers : Obligations.StepAlwaysAnswers := by
  intro s
  cases hp : s.pending with
  | nil => exact ⟨s, step_of_nil hp⟩
  | cons w rest =>
    cases hd : decode w with
    | error e => cases e; exact ⟨_, step_of_illegal hp hd⟩
    | ok i =>
      obtain ⟨t, ht⟩ := exists_moves_of_wellFormed (encodeOfDecodeIsTheWord w i hd).1 (s.dropTo rest)
      exact ⟨t, (step_of_ok hp hd).trans (exec_of_moves ht)⟩

/-! ### What every step keeps -/

/-- A property of the states is kept by a step if it is kept by taking a word off, by recording the
verdict, and by the decoded transaction. -/
theorem step_keeps {P : State → Prop} {s t : State} (h : step s = .next t) (hs : P s)
    (hdrop : ∀ rest, P (s.dropTo rest))
    (hreply : ∀ rest, P ((s.dropTo rest).reply .illegalCommand))
    (hmoves : ∀ w rest i, s.pending = w :: rest → decode w = .ok i → P (s.dropTo rest) →
      Moves (s.dropTo rest) i t → P t) : P t := by
  rcases step_next h with ⟨-, rfl⟩ | ⟨w, rest, hp, ⟨-, rfl⟩ | ⟨i, hd, hexec⟩⟩
  · exact hs
  · exact hreply rest
  · exact hmoves w rest i hp hd (hdrop rest) (exec_moves hexec)

/-- `advance` keeps the invariant: a mode begins at counter 0, and only the render touches a store. -/
theorem Advances.keeps_inv {delta : Nat} {s t : State} (h : Advances delta s t) (hs : s.Inv) :
    t.Inv := by
  obtain ⟨hcounter, hvram, hoam, hfb, hstat, hwy, hwx⟩ := hs
  cases h with
  | accumulate h => exact ⟨h, hvram, hoam, hfb, hstat, hwy, hwx⟩
  | renderFault | lineOverflow => exact ⟨hcounter, hvram, hoam, hfb, hstat, hwy, hwx⟩
  | vramTransferEnd fb hm h hr =>
    exact ⟨by simp [threshold], hvram, hoam, renderScanline_wf hr hfb, hstat, hwy, hwx⟩
  | oamSearchEnd | vblankEntry | nextLine | frameWrap | nextVblankLine =>
    exact ⟨by simp [threshold], hvram, hoam, hfb, hstat, hwy, hwx⟩

/-- Every transaction keeps the invariant: a store write keeps the canonical form, and no register write
reaches the counter, STAT or the window bytes. -/
theorem Moves.keeps_inv {i : Instr} {s t : State} (h : Moves s i t) (hs : s.Inv) : t.Inv := by
  cases h with
  | advance delta t hf h => exact h.keeps_inv hs
  | writeVram a d hf h => exact { hs with vram_wf := Memory.wf_write d h hs.vram_wf }
  | writeOam a d hf h => exact { hs with oam_wf := Memory.wf_write d h hs.oam_wf }
  | _ => exact { hs with }

/-- Settles O56, by `step_keeps` from what each transaction keeps. -/
theorem stepKeepsTheInvariant : Obligations.StepKeepsTheInvariant := fun _ _ hs h =>
  step_keeps h hs (fun _ => { hs with }) (fun _ => { hs with }) fun _ _ _ _ _ hdrop hm =>
    hm.keeps_inv hdrop

/-- Settles O55: reset lists nothing, and its line 0 is in HBlank's range. -/
theorem resetMeetsTheInvariants : Obligations.ResetMeetsTheInvariants :=
  ⟨⟨by decide, rfl, rfl, rfl, rfl, rfl, rfl⟩, ⟨rfl, nofun, fun _ => Nat.zero_le _⟩⟩

/-- In range, `advance` meets no line that faults and leads each line to the next one of R24. -/
theorem Advances.keeps_lineInRange {delta : Nat} {s t : State} (h : Advances delta s t)
    (hs : s.LineInRange) : t.LineInRange := by
  obtain ⟨hf, hvb, hvis⟩ := hs
  cases h with
  | accumulate => exact ⟨hf, hvb, hvis⟩
  | oamSearchEnd hm | vramTransferEnd _ hm =>
    exact ⟨hf, nofun, fun _ => hvis (by simp [hm])⟩
  | renderFault k hm h hr =>
    have := hvis (by simp [hm])
    have := (renderScanline_error_iff.mp hr).2
    omega
  | lineOverflow hm h hl =>
    have := hvis (by simp [hm])
    omega
  | vblankEntry hm h hl =>
    have hnext := toNat_line_add_one (l := s.line) (by omega)
    refine ⟨hf, fun _ => ?_, fun hne => absurd rfl hne⟩
    show 144 ≤ (s.line + 1).toNat ∧ (s.line + 1).toNat ≤ 153
    omega
  | nextLine hm h hl hl' =>
    have := hvis (by simp [hm])
    have hnext := toNat_line_add_one (l := s.line) (by omega)
    refine ⟨hf, nofun, fun _ => ?_⟩
    show (s.line + 1).toNat ≤ 143
    omega
  | frameWrap => exact ⟨hf, nofun, fun _ => Nat.zero_le _⟩
  | nextVblankLine hm h hl =>
    have := hvb hm
    have hnext := toNat_line_add_one (l := s.line) (by omega)
    rw [ofNat_line_add_one]
    refine ⟨hf, fun _ => ?_, fun hne => absurd rfl hne⟩
    show 144 ≤ (s.line + 1).toNat ∧ (s.line + 1).toNat ≤ 153
    omega

/-- A transaction other than a write to LY keeps the line in range. -/
theorem Moves.keeps_lineInRange {i : Instr} {s t : State} (h : Moves s i t) (hs : s.LineInRange)
    (hi : ∀ d, i ≠ .writeLy d) : t.LineInRange := by
  cases h with
  | advance delta t hf h => exact h.keeps_lineInRange hs
  | writeLy d => exact absurd rfl (hi d)
  | _ => exact { hs with }

/-- Settles O57, by `step_keeps`: the decoded transaction is no write to LY. -/
theorem stepKeepsTheLineInRange : Obligations.StepKeepsTheLineInRange := fun _ _ hs hnext h =>
  step_keeps h hs (fun _ => { hs with }) (fun _ => { hs with }) fun w rest _ hp hd hdrop hm =>
    hm.keeps_lineInRange hdrop fun d hi => hnext w rest d hp (hi ▸ hd)

/-- R156's last case as a relation of a state to a later one: outside VBlank past line 143, with no flag
that `s` has not. -/
structure PastScreen (s t : State) : Prop where
  mode_ne : t.mode ≠ .vblank
  line_ge : 144 ≤ t.line.toNat
  flag_le : t.vblankPending = true → s.vblankPending = true

/-- Past the screen `advance` finds no line 143 to leave for VBlank; line 255 faults and stays. -/
theorem Advances.keeps_pastScreen {delta : Nat} {s₀ s t : State} (h : Advances delta s t)
    (hs : PastScreen s₀ s) : PastScreen s₀ t := by
  obtain ⟨hmode, hline, hflag⟩ := hs
  cases h with
  | accumulate | renderFault | lineOverflow => exact ⟨hmode, hline, hflag⟩
  | oamSearchEnd | vramTransferEnd => exact ⟨nofun, hline, hflag⟩
  | vblankEntry hm h hl => omega
  | nextLine hm h hl hl' =>
    have hnext := toNat_line_add_one (l := s.line) (by have := s.line.isLt; omega)
    refine ⟨nofun, ?_, hflag⟩
    show 144 ≤ (s.line + 1).toNat
    omega
  | frameWrap hm | nextVblankLine hm => exact absurd hm hmode

/-- A transaction other than a write to LY keeps a state past the screen there. -/
theorem Moves.keeps_pastScreen {i : Instr} {s₀ s t : State} (h : Moves s i t) (hs : PastScreen s₀ s)
    (hi : ∀ d, i ≠ .writeLy d) : PastScreen s₀ t := by
  cases h with
  | advance delta t hf h => exact h.keeps_pastScreen hs
  | writeLy d => exact absurd rfl (hi d)
  | readFrame => exact { hs with flag_le := nofun }
  | _ => exact { hs with }

/-- Settles O33, by `step_keeps` on what lies past the screen. -/
theorem lineBeyond143NeverEntersVblank : Obligations.LineBeyond143NeverEntersVblank := by
  intro s t hmode hline hnext h
  have hs : PastScreen s s := ⟨hmode, hline, id⟩
  obtain ⟨hmode', hline', hflag'⟩ : PastScreen s t :=
    step_keeps h hs (fun _ => { hs with }) (fun _ => { hs with }) fun w rest _ hp hd hdrop hm =>
      hm.keeps_pastScreen hdrop fun d hi => hnext w rest d hp (hi ▸ hd)
  exact ⟨hmode', hline', hflag'⟩

/-! ### The faulted state -/

/-- R184 in `Moves`: a faulted state has the one case that answers `Faulted`. -/
theorem Moves.eq_reply_of_faulted {i : Instr} {s t : State} {k : Fault} (h : Moves s i t)
    (hf : s.fault = some k) : t = s.reply (.faulted k) := by
  cases h with
  | faulted i k' hf' => rw [hf] at hf'; cases hf'; rfl
  | _ => simp_all

/-- Settles O42: the one case of `Moves` for a faulted state. -/
theorem faultedBlockAnswersFaulted : Obligations.FaultedBlockAnswersFaulted := fun _ i k hf =>
  exec_of_moves (.faulted i k hf)

/-- Settles O43: the queue and the answer are all that a step of a faulted block changes. -/
theorem faultIsNeverCleared : Obligations.FaultIsNeverCleared := fun s t k hf h =>
  step_keeps (P := fun t => t.fault = some k ∧ t = { s with pending := t.pending, result := t.result })
    h ⟨hf, rfl⟩ (fun _ => ⟨hf, rfl⟩) (fun _ => ⟨hf, rfl⟩) fun _ rest _ _ _ _ hm => by
      obtain rfl := hm.eq_reply_of_faulted (k := k) hf
      exact ⟨hf, rfl⟩

end Sys2Proof.Machine
end

section
/-! R100 to R103 and R120 to R132: the bus accesses, each word decoded to its transaction and each
transaction at its effect. -/

namespace Sys2Proof.Machine

/-! ### R77's rows, from the address to the transactions -/

theorem decodeRead_of_oamWindow {a : Addr} (h : 0xFE00 ≤ a.toNat ∧ a.toNat ≤ 0xFE9F) :
    decodeRead a = .readOam a :=
  (AddressRow.oam (d := 0) ((inOamWindow_iff a).mpr h)).eq_decode.1.symm

theorem decodeWrite_of_vramWindow {a : Addr} (h : 0x8000 ≤ a.toNat ∧ a.toNat ≤ 0x9FFF) (d : Byte) :
    decodeWrite a d = .writeVram a d :=
  (AddressRow.vram ((inVramWindow_iff a).mpr h)).eq_decode.2.symm

theorem decodeWrite_of_oamWindow {a : Addr} (h : 0xFE00 ≤ a.toNat ∧ a.toNat ≤ 0xFE9F) (d : Byte) :
    decodeWrite a d = .writeOam a d :=
  (AddressRow.oam ((inOamWindow_iff a).mpr h)).eq_decode.2.symm

theorem decodeRead_of_unmapped {a : Addr} (h : isUnmapped a = true) : decodeRead a = .readUnmapped a :=
  (AddressRow.unmapped (d := 0) h).eq_decode.1.symm

theorem decodeWrite_of_unmapped {a : Addr} (h : isUnmapped a = true) (d : Byte) :
    decodeWrite a d = .writeUnmapped a d :=
  (AddressRow.unmapped h).eq_decode.2.symm

/-- D21: the addresses between OAM and the registers are unmapped. -/
theorem isUnmapped_of_pastOam {a : Addr} (hlo : 0xFEA0 ≤ a.toNat) (hhi : a.toNat ≤ 0xFEFF) :
    isUnmapped a = true := by
  rw [isUnmapped_iff]; omega

/-! ### The stores -/

/-- Settles O11, from the WRITE_VRAM case of `Moves` and the read after a write. -/
theorem writeVramStoresTheByte : Obligations.WriteVramStoresTheByte := by
  intro a d hlo hhi
  have hwindow : 0x8000 ≤ a.toNat ∧ a.toNat ≤ 0x9FFF := ⟨hlo, hhi⟩
  refine ⟨?_, Laws.RowPattern.writeVram a d ((inVramWindow_iff a).mpr hwindow), fun s hf =>
    ⟨_, exec_of_moves (.writeVram a d hf ((vramOffset_lt_iff a).mpr hwindow)), rfl,
      Memory.read_write_same _ _ _, vramOffset_eq hlo, fun _ hoff => Memory.read_write_other _ _ hoff⟩⟩
  rw [decode_writeWord, decodeWrite_of_vramWindow hwindow]

/-- Settles O12, from the READ_OAM case of `Answers`. -/
theorem readOamReturnsTheStoredByte : Obligations.ReadOamReturnsTheStoredByte := by
  refine ⟨fun a hlo hhi => ?_, fun a hlo hhi => ?_⟩
  · have hwindow : 0xFE00 ≤ a.toNat ∧ a.toNat ≤ 0xFE9F := ⟨hlo, hhi⟩
    refine ⟨?_, Laws.RowPattern.readOam a ((inOamWindow_iff a).mpr hwindow), fun s hf => ?_⟩
    · rw [decode_readWord, decodeRead_of_oamWindow hwindow]
    · rw [← oamOffset_eq hlo]
      exact exec_of_answers hf (.readOam a ((oamOffset_lt_iff a).mpr hwindow))
  · rw [decode_readWord, decodeRead_of_unmapped (isUnmapped_of_pastOam hlo hhi)]

/-- Settles O13, from the WRITE_OAM case of `Moves` and the read after a write. -/
theorem writeOamStoresTheByte : Obligations.WriteOamStoresTheByte := by
  refine ⟨fun a d hlo hhi => ?_, fun a d hlo hhi => ?_⟩
  · have hwindow : 0xFE00 ≤ a.toNat ∧ a.toNat ≤ 0xFE9F := ⟨hlo, hhi⟩
    refine ⟨?_, Laws.RowPattern.writeOam a d ((inOamWindow_iff a).mpr hwindow), fun s hf =>
      ⟨_, exec_of_moves (.writeOam a d hf ((oamOffset_lt_iff a).mpr hwindow)), rfl,
        Memory.read_write_same _ _ _, oamOffset_eq hlo, fun _ hoff => Memory.read_write_other _ _ hoff⟩⟩
    rw [decode_writeWord, decodeWrite_of_oamWindow hwindow]
  · rw [decode_writeWord, decodeWrite_of_unmapped (isUnmapped_of_pastOam hlo hhi)]

/-- Settles O14: outside its window an address is at an offset outside its store (R53). -/
theorem offsetOutsideItsStoreIsRefused : Obligations.OffsetOutsideItsStoreIsRefused := by
  refine fun s a d hf => ⟨fun h => ?_, fun h => ?_⟩
  · have hoff : ¬ vramOffset a < Config.vramSize := by
      rw [Config.vramSize_eq, vramOffset_lt_iff, ← inVramWindow_iff]
      simp [h]
    exact ⟨(unlessFaulted_of_none hf _).trans (readStore_of_ge (Nat.le_of_not_lt hoff) _ _),
      (unlessFaulted_of_none hf _).trans (if_neg hoff)⟩
  · have hoff : ¬ oamOffset a < Config.oamSize := by
      rw [Config.oamSize_eq, oamOffset_lt_iff, ← inOamWindow_iff]
      simp [h]
    exact ⟨(unlessFaulted_of_none hf _).trans (readStore_of_ge (Nat.le_of_not_lt hoff) _ _),
      (unlessFaulted_of_none hf _).trans (if_neg hoff)⟩

/-- Settles O48: in `Moves` each store has one case that changes it. -/
theorem oamAndVramNeverAlias : Obligations.OamAndVramNeverAlias := by
  intro i s t h
  cases exec_moves h with
  | writeVram a d => exact ⟨fun hne => absurd rfl hne, fun _ => ⟨⟨a, d, rfl⟩, rfl⟩⟩
  | writeOam a d => exact ⟨fun _ => ⟨⟨a, d, rfl⟩, rfl⟩, fun hne => absurd rfl hne⟩
  | advance delta t hf h =>
    cases h <;> exact ⟨fun hne => absurd rfl hne, fun hne => absurd rfl hne⟩
  | _ => exact ⟨fun hne => absurd rfl hne, fun hne => absurd rfl hne⟩

/-! ### The LCDC and STAT bytes -/

/-- R79's codec loses no byte: each field is put back at the bit it was taken from. -/
theorem LcdControl.encode_decode (b : Byte) : (LcdControl.decode b).encode = b := by
  refine BitVec.eq_of_getLsbD_eq fun i hi => ?_
  have hsel : ∀ c : Bool, bitOfSelector (selectorOfBit c) = c := by decide
  have hsize : ∀ c : Bool, (if c then SpriteSize.size8x16 else .size8x8) = .size8x16 ↔ c := by decide
  simp only [LcdControl.encode, LcdControl.decode, BitVec.getLsbD_append, BitVec.getLsbD_ofBool, hsel,
    hsize]
  interval_cases i <;> simp

/-- R79's codec loses no field. -/
theorem LcdControl.decode_encode (x : LcdControl) : LcdControl.decode x.encode = x := by
  obtain ⟨lcdEnable, windowTileMap, windowEnable, bgwTileData, bgTileMap, spriteSize, spriteEnable,
    bgEnable⟩ := x
  have hsel : ∀ m : TileSelector, selectorOfBit (bitOfSelector m) = m := by
    intro m; cases m <;> rfl
  have hsize : (if spriteSize = .size8x16 then SpriteSize.size8x16 else .size8x8) = spriteSize := by
    cases spriteSize <;> rfl
  simp only [LcdControl.decode, LcdControl.encode, BitVec.getLsbD_append, BitVec.getLsbD_ofBool]
  simp [hsel, hsize]

/-- R78's table, with the polarity of R17 resolved. -/
theorem LcdControl.decode_eq (b : Byte) :
    LcdControl.decode b =
      { lcdEnable := b.getLsbD 7,
        windowTileMap := if b.getLsbD 6 then .set1 else .set0,
        windowEnable := b.getLsbD 5,
        bgwTileData := if b.getLsbD 4 then .set1 else .set0,
        bgTileMap := if b.getLsbD 3 then .set1 else .set0,
        spriteSize := if b.getLsbD 2 then .size8x16 else .size8x8,
        spriteEnable := b.getLsbD 1,
        bgEnable := b.getLsbD 0 } := rfl

/-- Settles O20, from the two round trips and R78's table. -/
theorem lcdcCodecIsABijection : Obligations.LcdcCodecIsABijection :=
  ⟨LcdControl.encode_decode, LcdControl.decode_encode, LcdControl.decode_eq⟩

/-- R80's bit places above the mode. -/
theorem LcdStatus.encode_bits (x : LcdStatus) (m : Mode) :
    (x.encode m).getLsbD 7 = false ∧ (x.encode m).getLsbD 6 = x.ieCoincidence ∧
      (x.encode m).getLsbD 5 = x.ieOam ∧ (x.encode m).getLsbD 4 = x.ieVblank ∧
      (x.encode m).getLsbD 3 = x.ieHblank ∧ (x.encode m).getLsbD 2 = x.coincidence := by
  simp only [LcdStatus.encode, BitVec.getLsbD_append]
  simp

/-- R80's mode field is the two low bits. -/
theorem LcdStatus.encode_toNat_mod (x : LcdStatus) (m : Mode) :
    (x.encode m).toNat % 4 = m.ord.toNat := by
  rw [LcdStatus.encode, BitVec.toNat_append, ← Nat.and_two_pow_sub_one_eq_mod _ 2,
    Nat.and_or_distrib_right, Nat.and_two_pow_sub_one_eq_mod, Nat.and_two_pow_sub_one_eq_mod,
    Nat.mod_eq_of_lt m.ord.isLt]
  simp [Nat.shiftLeft_eq]

/-- R81: every 2-bit value is the ordinal of the mode it decodes to. -/
theorem Mode.ord_ofOrd (o : BitVec 2) : (Mode.ofOrd o).ord = o := by
  revert o; decide

/-- R81's round trip: bits 7 and 2 are the ones the decoder drops. -/
theorem LcdStatus.encode_decode (b : Byte) :
    (LcdStatus.decode b).1.encode (LcdStatus.decode b).2 = b &&& 0x7B#8 := by
  refine BitVec.eq_of_getLsbD_eq fun i hi => ?_
  simp only [LcdStatus.encode, LcdStatus.decode, Mode.ord_ofOrd, BitVec.getLsbD_append,
    BitVec.getLsbD_and, BitVec.getLsbD_ofBool, BitVec.getLsbD_extractLsb']
  interval_cases i <;> simp

/-- Settles O21: the codec's bits, its round trip, and the view of a state with the STAT fields at
reset. -/
theorem statCodecMirrorsTheMode : Obligations.StatCodecMirrorsTheMode := by
  refine ⟨fun x m => ?_, fun b => ⟨LcdStatus.encode_decode b, rfl, rfl, rfl, rfl, rfl, Mode.ord_ofOrd _⟩,
    fun s hs => ?_⟩
  · obtain ⟨h7, h6, h5, h4, h3, h2⟩ := x.encode_bits m
    refine ⟨h7, h6, h5, h4, h3, h2, ?_⟩
    rw [x.encode_toNat_mod m]
    cases m <;> rfl
  · rw [State.statByte, hs.stat_reset]
    cases s.mode <;> rfl

/-! ### The registers -/

/-- Settles O15, from the LCDC cases and the codec. -/
theorem lcdcReadsAndWritesItsFields : Obligations.LcdcReadsAndWritesItsFields := by
  refine ⟨rfl, decode_writeWord 0xFF40#16, fun s hf => exec_of_answers hf .readLcdc, fun s d hf =>
    ⟨_, exec_of_moves (.writeLcdc d hf), rfl, ?_⟩, rfl⟩
  have hread := exec_of_answers (s := { s with lcdc := LcdControl.decode d }.reply .ok) hf .readLcdc
  rwa [State.reply_lcdc, LcdControl.encode_decode] at hread

/-- Settles O16, from the four cases of the scroll registers. -/
theorem scrollRegistersReadAndWrite : Obligations.ScrollRegistersReadAndWrite :=
  ⟨rfl, rfl, fun d => ⟨decode_writeWord 0xFF42#16 d, decode_writeWord 0xFF43#16 d⟩, fun _ d hf =>
    ⟨exec_of_answers hf .readScx, exec_of_answers hf .readScy, exec_of_moves (.writeScx d hf),
      exec_of_moves (.writeScy d hf)⟩⟩

/-- Settles O17, from the two cases of LY. -/
theorem lyReadsAndOverwritesTheLine : Obligations.LyReadsAndOverwritesTheLine :=
  ⟨rfl, decode_writeWord 0xFF44#16, fun _ d hf =>
    ⟨exec_of_answers hf .readLy, exec_of_moves (.writeLy d hf)⟩⟩

/-- Settles O18, from the two cases of BGP. -/
theorem bgpReadFailsAndWriteIsDiscarded : Obligations.BgpReadFailsAndWriteIsDiscarded :=
  ⟨rfl, decode_writeWord 0xFF47#16, fun _ d hf =>
    ⟨exec_of_answers hf .readBgp, exec_of_answers hf (.writeBgp d)⟩⟩

/-- Settles O19, from R77's last row and the two error cases of `Answers`. -/
theorem unmappedAccessIsAnError : Obligations.UnmappedAccessIsAnError := by
  refine fun a d h => ⟨?_, ?_, Laws.RowPattern.readUnmapped a h, Laws.RowPattern.writeUnmapped a d h,
    fun s hf => ⟨exec_of_answers hf (.readUnmapped a), exec_of_answers hf (.writeUnmapped a d)⟩⟩
  · rw [decode_readWord, decodeRead_of_unmapped h]
  · rw [decode_writeWord, decodeWrite_of_unmapped h]

/-- Settles O41, from the READ_FRAME case of `Moves`; a clear flag is cleared to itself. -/
theorem readFrameAnswersTheFrameAndClearsTheFlag :
    Obligations.ReadFrameAnswersTheFrameAndClearsTheFlag := by
  refine ⟨rfl, fun s hf => exec_of_moves (.readFrame hf), fun s hf hflag => ?_⟩
  have hsame : s.clearVblank = s := by rw [State.clearVblank, ← hflag]
  rw [exec_of_moves (.readFrame hf), hsame, State.reply]

end Sys2Proof.Machine
end

section
/-! R57 to R59, R180 to R187: what an access depends on, what it leaves for the next one, and the errors,
faults and the flag. -/

namespace Sys2Proof.Machine

/-! ### R58: the mode -/

/-- No answer depends on the mode. -/
theorem Answers.withMode {i : Instr} {s : State} {r : Result} (h : Answers s i r) (m : Mode) :
    Answers { s with mode := m } i r := by
  cases h with
  | readVram a h => exact .readVram a h
  | readOam a h => exact .readOam a h
  | _ => constructor

/-- A bus access moves the same fields in every mode. -/
theorem Moves.withMode {i : Instr} {s t : State} (h : Moves s i t) (m : Mode)
    (hi : isBusRead i = true ∨ isBusWrite i = true) :
    Moves { s with mode := m } i { t with mode := m } := by
  cases h with
  | faulted i k hf => exact .faulted (s := { s with mode := m }) i k hf
  | answers i r hf h => exact .answers (s := { s with mode := m }) i r hf (h.withMode m)
  | writeVram a d hf h => exact .writeVram (s := { s with mode := m }) a d hf h
  | writeOam a d hf h => exact .writeOam (s := { s with mode := m }) a d hf h
  | writeLcdc d hf => exact .writeLcdc (s := { s with mode := m }) d hf
  | writeScx d hf => exact .writeScx (s := { s with mode := m }) d hf
  | writeScy d hf => exact .writeScy (s := { s with mode := m }) d hf
  | writeLy d hf => exact .writeLy (s := { s with mode := m }) d hf
  | advance => cases hi <;> contradiction
  | readFrame => cases hi <;> contradiction

/-- Settles O52, by carrying the case of `Moves` over to the other mode. -/
theorem accessesIgnoreTheMode : Obligations.AccessesIgnoreTheMode := fun _ _ _ m hi h =>
  exec_of_moves ((exec_moves h).withMode m hi)

/-! ### R59: a read after a write -/

theorem vramOffset_injective : Function.Injective vramOffset := fun _ _ h =>
  sub_left_injective (BitVec.eq_of_toNat_eq h)

theorem oamOffset_injective : Function.Injective oamOffset := fun _ _ h =>
  sub_left_injective (BitVec.eq_of_toNat_eq h)

/-- What a write at `a` leaves to be read at the other addresses; a field not given is one the write does
not touch at all. -/
structure WriteFrame (a : Addr) (s t : State) : Prop where
  vram : ∀ b, b ≠ a → t.vram.read (vramOffset b) = s.vram.read (vramOffset b) := by intros; rfl
  oam : ∀ b, b ≠ a → t.oam.read (oamOffset b) = s.oam.read (oamOffset b) := by intros; rfl
  lcdc : a ≠ 0xFF40#16 → t.lcdc = s.lcdc := by intros; rfl
  scrollX : a ≠ 0xFF42#16 → t.pos.scrollX = s.pos.scrollX := by intros; rfl
  scrollY : a ≠ 0xFF43#16 → t.pos.scrollY = s.pos.scrollY := by intros; rfl
  line : a ≠ 0xFF44#16 → t.line = s.line := by intros; rfl
  fault : t.fault = s.fault := by rfl

/-- A write at `a` touches the element of `a`'s row and no other. -/
theorem Moves.writeFrame {a : Addr} {d : Byte} {r w : Instr} {s t : State} (ha : AddressRow a d r w)
    (h : Moves s w t) : WriteFrame a s t := by
  cases h with
  | faulted | answers => exact {}
  | writeVram a' d hf h =>
    cases ha
    exact { vram := fun b hb => Memory.read_write_other _ _ (vramOffset_injective.ne hb) }
  | writeOam a' d hf h =>
    cases ha
    exact { oam := fun b hb => Memory.read_write_other _ _ (oamOffset_injective.ne hb) }
  | writeLcdc d hf => cases ha with | lcdc ha => exact { lcdc := fun hne => absurd ha hne }
  | writeScx d hf => cases ha with | scx ha => exact { scrollX := fun hne => absurd ha hne }
  | writeScy d hf => cases ha with | scy ha => exact { scrollY := fun hne => absurd ha hne }
  | writeLy d hf => cases ha with | ly ha => exact { line := fun hne => absurd ha hne }
  | advance | readFrame => cases ha

/-- A row's READ transaction has an answer. -/
theorem AddressRow.exists_answers {a : Addr} {d : Byte} {r w : Instr} (h : AddressRow a d r w)
    (s : State) : ∃ x, Answers s r x := by
  cases h with
  | vram h => exact ⟨_, .readVram a ((vramOffset_lt_iff a).mpr ((inVramWindow_iff a).mp h))⟩
  | oam h => exact ⟨_, .readOam a ((oamOffset_lt_iff a).mpr ((inOamWindow_iff a).mp h))⟩
  | lcdc => exact ⟨_, .readLcdc⟩
  | scx => exact ⟨_, .readScx⟩
  | scy => exact ⟨_, .readScy⟩
  | ly => exact ⟨_, .readLy⟩
  | bgp => exact ⟨_, .readBgp⟩
  | unmapped => exact ⟨_, .readUnmapped a⟩

/-- A read elsewhere answers after the write what it answered before. -/
theorem WriteFrame.answers_of_ne {a b : Addr} {d : Byte} {r w : Instr} {s t : State} {x : Result}
    (h : WriteFrame a s t) (hb : AddressRow b d r w) (hx : Answers s r x) (hne : b ≠ a) :
    Answers t r x := by
  cases hb with
  | vram => cases hx with | readVram _ hlt => exact h.vram b hne ▸ .readVram b hlt
  | oam => cases hx with | readOam _ hlt => exact h.oam b hne ▸ .readOam b hlt
  | lcdc hb => cases hx; exact h.lcdc (hb ▸ hne.symm) ▸ .readLcdc
  | scx hb => cases hx; exact h.scrollX (hb ▸ hne.symm) ▸ .readScx
  | scy hb => cases hx; exact h.scrollY (hb ▸ hne.symm) ▸ .readScy
  | ly hb => cases hx; exact h.line (hb ▸ hne.symm) ▸ .readLy
  | bgp => cases hx; exact .readBgp
  | unmapped => cases hx; exact .readUnmapped b

/-- R51's rows with storage behind them: the windows and the four registers other than BGP. -/
def HasStorage (a : Addr) : Prop := isUnmapped a = false ∧ a ≠ 0xFF47#16

theorem hasStorage_of_vramWindow {a : Addr} (h : inVramWindow a = true) : HasStorage a :=
  ⟨by simp [isUnmapped, h], by rintro rfl; cases h⟩

theorem hasStorage_of_oamWindow {a : Addr} (h : inOamWindow a = true) : HasStorage a :=
  ⟨by simp [isUnmapped, h], by rintro rfl; cases h⟩

/-- With storage behind its address, a READ transaction answers the byte the WRITE transaction stored. -/
theorem AddressRow.answers_written {a : Addr} {d : Byte} {r w : Instr} {s t : State}
    (ha : AddressRow a d r w) (hf : s.fault = none) (hw : Moves s w t) (hs : HasStorage a) :
    Answers t r (.data d) := by
  cases hw with
  | faulted _ k hk => simp [hf] at hk
  | answers _ x _ h =>
    obtain ⟨hmapped, hne⟩ := hs
    cases ha with
    | bgp ha => exact absurd ha hne
    | unmapped ha => simp [hmapped] at ha
    | _ => cases h
  | writeVram _ _ _ hlt =>
    cases ha
    have hread := Answers.readVram
      (s := { s with vram := s.vram.write (vramOffset a) d }.reply .ok) a hlt
    rwa [State.reply_vram, Memory.read_write_same] at hread
  | writeOam _ _ _ hlt =>
    cases ha
    have hread := Answers.readOam
      (s := { s with oam := s.oam.write (oamOffset a) d }.reply .ok) a hlt
    rwa [State.reply_oam, Memory.read_write_same] at hread
  | writeLcdc =>
    cases ha
    have hread := Answers.readLcdc (s := { s with lcdc := LcdControl.decode d }.reply .ok)
    rwa [State.reply_lcdc, LcdControl.encode_decode] at hread
  | writeScx => cases ha; exact .readScx
  | writeScy => cases ha; exact .readScy
  | writeLy => cases ha; exact .readLy
  | advance | readFrame => cases ha

/-- A write to an address without storage leaves every read as it was. -/
theorem AddressRow.answers_of_not_hasStorage {a : Addr} {d : Byte} {r w i : Instr} {s t : State}
    {x : Result} (ha : AddressRow a d r w) (hw : Moves s w t) (hs : ¬ HasStorage a)
    (hx : Answers s i x) : Answers t i x := by
  cases hw with
  | faulted | answers => exact hx.reply _
  | writeVram => cases ha with | vram ha => exact absurd (hasStorage_of_vramWindow ha) hs
  | writeOam => cases ha with | oam ha => exact absurd (hasStorage_of_oamWindow ha) hs
  | writeLcdc => cases ha with | lcdc ha => subst ha; exact absurd ⟨rfl, by decide⟩ hs
  | writeScx => cases ha with | scx ha => subst ha; exact absurd ⟨rfl, by decide⟩ hs
  | writeScy => cases ha with | scy ha => subst ha; exact absurd ⟨rfl, by decide⟩ hs
  | writeLy => cases ha with | ly ha => subst ha; exact absurd ⟨rfl, by decide⟩ hs
  | advance | readFrame => cases ha

/-- Settles O51: the read is at the address written, with or without storage, or it is elsewhere. -/
theorem readReturnsTheLatestWrite : Obligations.ReadReturnsTheLatestWrite := by
  intro s a b d hf
  have ha := addressRow a d
  have hb := addressRow b d
  obtain ⟨t, hw⟩ := exists_moves_of_wellFormed ha.encode_eq.2.1 s
  have hframe := hw.writeFrame ha
  have hft : t.fault = none := hframe.fault.trans hf
  obtain ⟨x, hx⟩ := hb.exists_answers s
  have hbefore := exec_of_answers hf hx
  by_cases hhit : b = a ∧ HasStorage a
  · obtain ⟨rfl, hs⟩ := hhit
    have hafter := exec_of_answers hft (ha.answers_written hf hw hs)
    exact ⟨t, _, _, exec_of_moves hw, hafter, hbefore, (if_pos ⟨rfl, hs⟩).symm⟩
  · have hsame : Answers t (decodeRead b) x := by
      by_cases hne : b = a
      · exact ha.answers_of_not_hasStorage hw (fun hs => hhit ⟨hne, hs⟩) hx
      · exact hframe.answers_of_ne hb hx hne
    exact ⟨t, _, _, exec_of_moves hw, exec_of_answers hft hsame, hbefore, (if_neg hhit).symm⟩

/-! ### Errors and faults -/

/-- Settles O44: outside ADVANCE no case of `Moves` sets the fault element, and of ADVANCE's the two that
fault set nothing else. -/
theorem onlyAdvanceRaisesAFault : Obligations.OnlyAdvanceRaisesAFault := by
  intro i s t k h hf hk
  have hnot : s.fault ≠ some k := by simp [hf]
  cases exec_moves h with
  | advance delta t _ h =>
    refine ⟨⟨delta, rfl⟩, ?_⟩
    cases h with
    | renderFault k' | lineOverflow => cases hk; rfl
    | _ => exact absurd hk hnot
  | _ => exact absurd hk hnot

/-- The errors a transaction answers are R181's and R183's. -/
theorem Answers.error_kind {i : Instr} {s : State} {k : ErrorKind} {a : Addr}
    (h : Answers s i (.error k a)) : k = .unmappedAddress ∨ k = .writeToReadOnly := by
  cases h with
  | readBgp => exact .inr rfl
  | readUnmapped | writeUnmapped => exact .inl rfl

/-- An error is an answer, and the one case of `Moves` that answers one changes nothing else. -/
theorem Moves.error_answers {i : Instr} {s t : State} {k : ErrorKind} {a : Addr} (h : Moves s i t)
    (hr : t.result = some (.error k a)) :
    s.fault = none ∧ t = s.reply (.error k a) ∧ Answers s i (.error k a) := by
  cases h with
  | answers i r hf h => cases hr; exact ⟨hf, rfl, h⟩
  | advance delta t hf h => cases h <;> cases hr
  | _ => cases hr

/-- Settles O49, from the one case of `Moves` that answers an error. -/
theorem errorsChangeNothing : Obligations.ErrorsChangeNothing := by
  intro i s t k a h hr
  obtain ⟨hf, rfl, hanswer⟩ := (exec_moves h).error_answers hr
  refine ⟨rfl, hf, ?_⟩
  rintro rfl
  rcases hanswer.error_kind with hk | hk <;> cases hk

/-! ### R187: the flag -/

/-- Only the HBlank end of line 143 sets the flag, and no case of `advance` clears it. -/
theorem Advances.flag {delta : Nat} {s t : State} (h : Advances delta s t) :
    t.vblankPending = s.vblankPending ∨
      (s.mode = .hblank ∧ s.line = 143#8 ∧ t.mode = .vblank ∧ t.line = 144#8 ∧
        t.vblankPending = true) := by
  cases h with
  | vblankEntry hm h hl =>
    have hline : s.line = 143#8 := BitVec.eq_of_toNat_eq hl
    refine .inr ⟨hm, hline, rfl, ?_, rfl⟩
    show s.line + 1 = 144#8
    rw [hline]; rfl
  | _ => exact .inl rfl

/-- R187's two events: ADVANCE may set the flag, READ_FRAME clears it, every other transaction keeps
it. -/
theorem Moves.flag {i : Instr} {s t : State} (h : Moves s i t) :
    t.vblankPending = s.vblankPending ∨
      (((∃ delta, i = .advance delta) ∧ s.mode = .hblank ∧ s.line = 143#8 ∧ t.mode = .vblank ∧
        t.line = 144#8) ∧ t.vblankPending = true) ∨
      (i = .readFrame ∧ t.vblankPending = false) := by
  cases h with
  | advance delta t _ h =>
    rcases h.flag with heq | ⟨hm, hl, hm', hl', hset⟩
    · exact .inl heq
    · exact .inr (.inl ⟨⟨⟨delta, rfl⟩, hm, hl, hm', hl'⟩, hset⟩)
  | readFrame => exact .inr (.inr ⟨rfl, rfl⟩)
  | _ => exact .inl rfl

/-- Settles O46, by the events of the flag. -/
theorem vblankFlagChangesOnlyAtItsTwoEvents : Obligations.VblankFlagChangesOnlyAtItsTwoEvents := by
  intro i s t h
  rcases (exec_moves h).flag with heq | ⟨hevent, hset⟩ | ⟨hread, hclear⟩
  · exact ⟨fun hs ht => by simp [heq, hs] at ht, fun hs ht => by simp [heq, hs] at ht, rfl⟩
  · exact ⟨fun _ _ => hevent, fun _ ht => by simp [hset] at ht, rfl⟩
  · exact ⟨fun _ ht => by simp [hclear] at ht, fun _ _ => hread, rfl⟩

end Sys2Proof.Machine
end

section
/-! R83, R84, R112 and R140 to R147: the pixel of a tile, and the row that the renderer draws. -/

namespace Sys2Proof.Machine

/-! ### Pixels -/

/-- `(v >> i) & 1` is bit `i`. -/
theorem bitAt_eq (v : Byte) (i : Nat) : bitAt v i = (v.getLsbD i).toNat := by
  rw [bitAt, ← BitVec.testBit_toNat, Nat.testBit_eq_decide_div_mod_eq, Nat.shiftRight_eq_div_pow]
  rcases Nat.mod_two_eq_zero_or_one (v.toNat / 2 ^ i) with h | h <;> simp [h]

/-- Two plane bits make an ordinal without loss (R83). -/
theorem ordinalOfBits_val (lo hi : Bool) :
    (ordinalOfBits lo.toNat hi.toNat).val = lo.toNat + 2 * hi.toNat := by
  cases lo <;> cases hi <;> rfl

/-- R110 by row and column of the tile. -/
theorem decodeTilePixel_at (vram : Memory) (sel : TileSelector) (t : Byte) (r : Nat)
    {c : Nat} (hc : c < 8) :
    decodeTilePixel vram sel t (r * 8 + c) =
      ordinalOfBits (bitAt (vram.read (tileBase sel t + 2 * r)) (7 - c))
        (bitAt (vram.read (tileBase sel t + 2 * r + 1)) (7 - c)) := by
  have hrow : (r * 8 + c) >>> 3 = r := by rw [Nat.shiftRight_eq_div_pow]; omega
  have hcol : (r * 8 + c) % 8 = c := by omega
  simp only [decodeTilePixel, hrow, hcol, Nat.mul_comm r 2]

theorem tileBase_eq (sel : TileSelector) (t : Byte) :
    tileBase sel t = (if sel = .set1 then 0x800 else 0) + t.toNat * 16 := by
  cases sel <;> rfl

/-- Settles O22: the pixel by row and column, and the two windows of R84. -/
theorem pixelOrdinalIsItsPlaneBits : Obligations.PixelOrdinalIsItsPlaneBits := by
  refine ⟨fun vram sel t r c _ hc => ?_, fun t => ?_⟩
  · rw [decodeTilePixel_at vram sel t r hc, bitAt_eq, bitAt_eq, ordinalOfBits_val, tileBase_eq]
  · have := t.isLt
    have hadd : (t + 128#8).toNat = (t.toNat + 128) % 256 := by simp
    simp only [tileBase_eq, hadd, reduceCtorEq, if_true, if_false]
    omega

/-- The pixels of a tile in row-major order are its rows one after another. -/
theorem range_sixtyFour_eq_flatMap :
    List.range 64 = (List.range 8).flatMap fun r => (List.range 8).map fun c => r * 8 + c := rfl

/-- R112: the tile decoder maps the pixel decoder over the pixels of the tile. -/
theorem decodeTile_eq_map (vram : Memory) (sel : TileSelector) (t : Byte) :
    decodeTile vram sel t = (List.range 64).map (decodeTilePixel vram sel t) := by
  rw [range_sixtyFour_eq_flatMap, List.map_flatMap, decodeTile]
  refine List.flatMap_congr fun r _ => ?_
  rw [decodeTileRow, List.map_map]
  refine List.map_congr_left fun c hc => ?_
  exact (decodeTilePixel_at vram sel t r (List.mem_range.mp hc)).symm

/-- Settles O23, from the map over the pixels. -/
theorem pixelAndTileDecodersAgree : Obligations.PixelAndTileDecodersAgree := by
  intro vram sel t
  rw [decodeTile_eq_map]
  exact ⟨by simp, fun p hp => by simp [hp]⟩

/-! ### The rendered row -/

/-- What the render of a visible line draws, and where. -/
structure DrawsRow (s : State) (fb : FrameBuffer) : Prop where
  inside : ∀ x < 160, fb.read (s.line.toNat * 160 + x) = backgroundPixel s s.line.toNat x
  outside : ∀ i, i < s.line.toNat * 160 ∨ s.line.toNat * 160 + 160 ≤ i → fb.read i = s.fb.read i

/-- R140's loop, started at the scrolled column, draws the row of the background plane. -/
theorem renderScanline_draws {s : State} (hl : s.line.toNat ≤ 143) :
    ∃ fb, renderScanline s = .ok fb ∧ DrawsRow s fb := by
  refine ⟨_, renderScanline_of_le hl, ⟨fun x hx => ?_, fun i hi => renderColumns_read_outside 160 hi⟩⟩
  have hsx := s.pos.scrollX.isLt
  have hcolumn : s.pos.scrollX.toNat / 8 * 8 + s.pos.scrollX.toNat % 8 + x =
      s.pos.scrollX.toNat + x := by omega
  have hmod : ∀ n, n % 256 % 8 = n % 8 := by omega
  refine (renderColumns_read_inside 160 (column := 0) (Nat.mod_lt _ (by omega)) (by omega) rfl
    hx).trans ?_
  simp only [backgroundPixel, mapEntryOffset, Config.tileMapRowStride_eq, hcolumn, hmod]

/-- Every rendered frame buffer has its row drawn. -/
theorem drawsRow_of_renderScanline_ok {s : State} {fb : FrameBuffer} (h : renderScanline s = .ok fb) :
    DrawsRow s fb := by
  obtain ⟨fb', h', hdraws⟩ := renderScanline_draws (line_le_of_renderScanline_ok h)
  rw [h] at h'
  exact Except.ok.inj h' ▸ hdraws

/-- Settles O25, from the row the loop draws. -/
theorem renderDrawsTheBackgroundRow : Obligations.RenderDrawsTheBackgroundRow := by
  intro s hl
  obtain ⟨fb, hr, hinside, houtside⟩ := renderScanline_draws hl
  exact ⟨fb, hr, hinside, houtside⟩

/-- The plane's pixels depend on the two scroll bytes, the two selectors and VRAM. -/
theorem backgroundPixel_congr {s s' : State} (hx : s'.pos.scrollX = s.pos.scrollX)
    (hy : s'.pos.scrollY = s.pos.scrollY) (hmap : s'.lcdc.bgTileMap = s.lcdc.bgTileMap)
    (hdata : s'.lcdc.bgwTileData = s.lcdc.bgwTileData) (hvram : s'.vram = s.vram) (y x : Nat) :
    backgroundPixel s' y x = backgroundPixel s y x := by
  simp only [backgroundPixel, hx, hy, hmap, hdata, hvram]

/-- Settles O26: the line decides the fault, and the plane's pixels the row. -/
theorem rendererReadsOnlyItsInputs : Obligations.RendererReadsOnlyItsInputs := by
  intro s s' hline hx hy hmap hdata hvram
  refine ⟨fun k => by rw [renderScanline_error_iff, renderScanline_error_iff, hline], fun fb hr => ?_⟩
  have hl := line_le_of_renderScanline_ok hr
  obtain ⟨fb', hr', hdraws'⟩ := renderScanline_draws (s := s') (by rwa [hline])
  refine ⟨fb', hr', fun x hx160 => ?_⟩
  rw [(drawsRow_of_renderScanline_ok hr).inside x hx160, ← hline, hdraws'.inside x hx160]
  exact backgroundPixel_congr hx hy hmap hdata hvram _ x

/-- Settles O47: the end of VRAMTransfer is the one case that sets the frame buffer. -/
theorem onlyARenderChangesTheFrameBuffer : Obligations.OnlyARenderChangesTheFrameBuffer := by
  intro i s t h hne
  cases exec_moves h with
  | advance delta t _ h =>
    cases h with
    | vramTransferEnd fb hm hcross hr =>
      exact ⟨⟨delta, rfl, hcross⟩, hm, rfl, line_le_of_renderScanline_ok hr,
        (drawsRow_of_renderScanline_ok hr).outside⟩
    | _ => exact absurd rfl hne
  | _ => exact absurd rfl hne

end Sys2Proof.Machine
end

section
/-! R150 to R160: the transitions of ADVANCE one by one, the deltas that add up to them, and what ADVANCE
does not read. -/

namespace Sys2Proof.Machine

/-! ### The transitions -/

/-- Settles O27: the OAMSearch case of `Advances`. -/
theorem oamSearchEndsAt80 : Obligations.OamSearchEndsAt80 := fun _ _ hf hm h =>
  exec_of_advances hf (.oamSearchEnd hm h)

/-- Settles O28: a visible line renders. -/
theorem vramTransferEndsAt172 : Obligations.VramTransferEndsAt172 := fun _ _ hf hm h hl =>
  ⟨_, renderScanline_of_le hl, exec_of_advances hf (.vramTransferEnd _ hm h (renderScanline_of_le hl))⟩

/-- Settles O29, from the two cases of an HBlank end that do not fault. -/
theorem hblankEndsAt204 : Obligations.HblankEndsAt204 := by
  refine fun s delta hf hm h => ⟨fun hl => ?_, fun hl hl' => ?_⟩
  · have hnext : s.line + 1 = 144#8 := by rw [hl]; rfl
    rw [exec_of_advances hf (.vblankEntry hm h (by rw [hl]; rfl)), hnext]; rfl
  · have hne : s.line.toNat ≠ 143 := fun heq => hl (BitVec.eq_of_toNat_eq heq)
    have hne' : s.line.toNat ≠ 255 := fun heq => hl' (BitVec.eq_of_toNat_eq heq)
    exact exec_of_advances hf (.nextLine hm h hne hne')

/-- Settles O30, from the two cases of a VBlank line's end. -/
theorem vblankLineEndsAt456 : Obligations.VblankLineEndsAt456 := by
  refine fun s delta hf hm h => ⟨fun hl => ?_, fun hl => exec_of_advances hf (.frameWrap hm h hl)⟩
  rw [exec_of_advances hf (.nextVblankLine hm h hl), ofNat_line_add_one, ← hm]; rfl

/-- Settles O31: the statement's thresholds are those of `threshold`. -/
theorem belowTheThresholdOnlyTheCounterMoves : Obligations.BelowTheThresholdOnlyTheCounterMoves := by
  intro s delta hf h
  refine exec_of_advances hf (.accumulate ?_)
  cases hm : s.mode <;> simpa [hm, threshold] using h

/-- Settles O32, from the two faults and the step past an HBlank line below the screen. -/
theorem outOfRangeLinesFault : Obligations.OutOfRangeLinesFault := by
  refine fun s delta hf => ⟨fun hm h hl => ?_, fun hm h hl => ?_, fun hm h hl hl' => ?_⟩
  · exact exec_of_advances hf (.lineOverflow hm h (by rw [hl]; rfl))
  · exact ⟨renderScanline_of_ge hl, exec_of_advances hf (.renderFault _ hm h (renderScanline_of_ge hl))⟩
  · exact exec_of_advances hf (.nextLine hm h (by omega) (by omega))

/-- The fault an `advance` from a state without one ends in, by R185's table. -/
theorem Advances.fault_iff {delta : Nat} {s t : State} {k : Fault} (h : Advances delta s t)
    (hf : s.fault = none) :
    t.fault = some k ↔
      (k = .renderRowOutOfRange ∧ s.mode = .vramTransfer ∧ 172 ≤ s.cycleCounter + delta ∧
        144 ≤ s.line.toNat) ∨
      (k = .lineCounterOverflow ∧ s.mode = .hblank ∧ 204 ≤ s.cycleCounter + delta ∧
        s.line.toNat = 255) := by
  cases h with
  | accumulate h =>
    refine ⟨fun hk => by simp [hf] at hk, ?_⟩
    rintro (⟨-, hm, hcross, -⟩ | ⟨-, hm, hcross, -⟩) <;>
      (rw [hm] at h; exact absurd h (Nat.not_lt.mpr hcross))
  | vramTransferEnd fb hm h hr =>
    have hvisible : ¬ 144 ≤ s.line.toNat := by have := line_le_of_renderScanline_ok hr; omega
    simp [hf, hm, hvisible]
  | renderFault k' hm h hr =>
    obtain ⟨rfl, hl⟩ := renderScanline_error_iff.mp hr
    simp [hm, h, hl, eq_comm]
  | lineOverflow hm h hl => simp [hm, h, hl, eq_comm]
  | oamSearchEnd hm | frameWrap hm | nextVblankLine hm => simp [hf, hm]
  | vblankEntry hm h hl | nextLine hm h _ hl => simp [hf, hm, hl]

/-- Settles O34: `advance` always answers, by R185's table, and a fault is O44's. -/
theorem advanceFaultsExactlyInTheTwoCases : Obligations.AdvanceFaultsExactlyInTheTwoCases := by
  intro s delta hf
  obtain ⟨t, ht⟩ := exists_advances delta s
  have hexec := exec_of_advances hf ht
  exact ⟨t, hexec, fun k => ⟨ht.fault_iff hf, fun hk => (onlyAdvanceRaisesAFault _ s t k hexec hf hk).2⟩⟩

/-! ### Surplus and sum of deltas -/

/-- R151: how far a delta passes the threshold makes no difference. -/
theorem Advances.of_crossing {delta delta' : Nat} {s t : State} (h : Advances delta s t)
    (hx : threshold s.mode ≤ s.cycleCounter + delta) (hx' : threshold s.mode ≤ s.cycleCounter + delta') :
    Advances delta' s t := by
  have hcross : ∀ {m}, s.mode = m → threshold m ≤ s.cycleCounter + delta' := fun hm => hm ▸ hx'
  cases h with
  | accumulate h => omega
  | oamSearchEnd hm => exact .oamSearchEnd hm (hcross hm)
  | vramTransferEnd fb hm _ hr => exact .vramTransferEnd fb hm (hcross hm) hr
  | renderFault k hm _ hr => exact .renderFault k hm (hcross hm) hr
  | vblankEntry hm _ hl => exact .vblankEntry hm (hcross hm) hl
  | lineOverflow hm _ hl => exact .lineOverflow hm (hcross hm) hl
  | nextLine hm _ hl hl' => exact .nextLine hm (hcross hm) hl hl'
  | frameWrap hm _ hl => exact .frameWrap hm (hcross hm) hl
  | nextVblankLine hm _ hl => exact .nextVblankLine hm (hcross hm) hl

/-- R151: a transition takes a mode to its successor and the counter to 0. -/
theorem Advances.transition {delta : Nat} {s t : State} (h : Advances delta s t)
    (hx : threshold s.mode ≤ s.cycleCounter + delta) (hf : t.fault = none) :
    t.cycleCounter = 0 ∧ (s.mode, t.mode) ∈
      [(Mode.oamSearch, Mode.vramTransfer), (.vramTransfer, .hblank), (.hblank, .oamSearch),
        (.hblank, .vblank), (.vblank, .vblank), (.vblank, .oamSearch)] := by
  cases h with
  | accumulate h => omega
  | renderFault | lineOverflow => cases hf
  | oamSearchEnd hm | vramTransferEnd _ hm | vblankEntry hm | nextLine hm | frameWrap hm
  | nextVblankLine hm => exact ⟨rfl, by simp [hm]⟩

/-- Settles O35, from the transition's independence of the surplus, and its six pairs of modes. -/
theorem surplusCyclesAreLost : Obligations.SurplusCyclesAreLost := by
  intro s delta hf hbelow hx
  obtain ⟨t, ht⟩ := exists_advances delta s
  have hexec := exec_of_advances hf ht
  refine ⟨hexec.trans (exec_of_advances hf (ht.of_crossing hx (by omega))).symm, fun u hu hfu => ?_⟩
  obtain rfl : t = u := Host.Outcome.next.inj (hexec.symm.trans hu)
  exact ht.transition hx hfu

/-- R160: a transition that does not fault forgets the counter it started from. -/
theorem Advances.from_zero {delta : Nat} {s t : State} (h : Advances delta s t)
    (hx : threshold s.mode ≤ s.cycleCounter + delta) (hf : t.fault = none) (r : Option Result) :
    Advances (s.cycleCounter + delta) { s with cycleCounter := 0, result := r } t := by
  have hcross : ∀ {m}, s.mode = m → threshold m ≤ 0 + (s.cycleCounter + delta) :=
    fun hm => by rw [← hm]; omega
  cases h with
  | accumulate h => omega
  | renderFault | lineOverflow => cases hf
  | oamSearchEnd hm =>
    exact .oamSearchEnd (s := { s with cycleCounter := 0, result := r }) hm (hcross hm)
  | vramTransferEnd fb hm _ hr =>
    exact .vramTransferEnd (s := { s with cycleCounter := 0, result := r }) fb hm (hcross hm) hr
  | vblankEntry hm _ hl =>
    exact .vblankEntry (s := { s with cycleCounter := 0, result := r }) hm (hcross hm) hl
  | nextLine hm _ hl hl' =>
    exact .nextLine (s := { s with cycleCounter := 0, result := r }) hm (hcross hm) hl hl'
  | frameWrap hm _ hl =>
    exact .frameWrap (s := { s with cycleCounter := 0, result := r }) hm (hcross hm) hl
  | nextVblankLine hm _ hl =>
    exact .nextVblankLine (s := { s with cycleCounter := 0, result := r }) hm (hcross hm) hl

theorem execAll_cons {i : Instr} {s t : State} (h : exec i s = .next t) (is : List Instr) :
    execAll (i :: is) s = execAll is t := by
  simp [execAll, h]

theorem execAll_append {is : List Instr} {s t : State} (h : execAll is s = .next t) (js : List Instr) :
    execAll (is ++ js) s = execAll js t := by
  induction is generalizing s with
  | nil => cases h; rfl
  | cons i is ih =>
    cases hi : exec i s with
    | next u =>
      rw [execAll_cons hi] at h
      rw [List.cons_append, execAll_cons hi, ih h]
    | fault | refused => simp [execAll, hi] at h

/-- R160: below the threshold a list of deltas does what its sum does. -/
theorem execAll_accumulate {deltas : List Nat} {s : State} (hf : s.fault = none)
    (h : s.cycleCounter + deltas.sum < threshold s.mode) :
    ∃ r, execAll (deltas.map Instr.advance) s =
      .next { s with cycleCounter := s.cycleCounter + deltas.sum, result := r } := by
  induction deltas generalizing s with
  | nil => exact ⟨s.result, rfl⟩
  | cons delta deltas ih =>
    rw [List.sum_cons, ← Nat.add_assoc] at h ⊢
    have hfirst := exec_of_advances hf
      (.accumulate (by omega : s.cycleCounter + delta < threshold s.mode))
    obtain ⟨r, hr⟩ := ih (s := { s with cycleCounter := s.cycleCounter + delta }.reply .ok) hf h
    exact ⟨r, (execAll_cons hfirst _).trans hr⟩

/-- Settles O36, by the sum of the deltas, and the transition's independence of the counter. -/
theorem deltasAddUpToTheThreshold : Obligations.DeltasAddUpToTheThreshold := by
  intro s deltas hf h
  obtain ⟨r, hr⟩ := execAll_accumulate hf h
  refine ⟨_, hr, rfl, fun delta u hx hexec hu => ?_⟩
  cases exec_moves hexec with
  | faulted _ k hk => simp [hf] at hk
  | advance _ _ _ hadv =>
    exact exec_of_advances (s := { s with cycleCounter := 0 }) hf (hadv.from_zero hx hu s.result)
  | answers _ _ _ h => cases h

/-! ### What ADVANCE does not read -/

/-- `s` with the state of R27, R30, R134 and R135 that no rule of ADVANCE reads replaced. -/
def State.withInert (s : State) (lcdc : LcdControl) (oam : Memory) (stat : LcdStatus) (wy wx : Byte) :
    State :=
  { s with lcdc := lcdc, oam := oam, stat := stat, pos := { s.pos with windowY := wy, windowX := wx } }

section
variable {delta : Nat} {s t : State} {lcdc : LcdControl} {oam : Memory} {stat : LcdStatus} {wy wx : Byte}
  (hmap : lcdc.bgTileMap = s.lcdc.bgTileMap) (hdata : lcdc.bgwTileData = s.lcdc.bgwTileData)
include hmap hdata

theorem renderScanline_withInert :
    renderScanline (s.withInert lcdc oam stat wy wx) = renderScanline s := by
  simp only [renderScanline, State.withInert, hmap, hdata]

/-- Each case of `advance` tests and sets fields that the replaced state is not among. -/
theorem Advances.withInert (h : Advances delta s t) :
    Advances delta (s.withInert lcdc oam stat wy wx) (t.withInert lcdc oam stat wy wx) := by
  have hrender := renderScanline_withInert (oam := oam) (stat := stat) (wy := wy) (wx := wx) hmap hdata
  cases h with
  | accumulate h => exact .accumulate (s := s.withInert lcdc oam stat wy wx) h
  | oamSearchEnd hm h => exact .oamSearchEnd (s := s.withInert lcdc oam stat wy wx) hm h
  | vramTransferEnd fb hm h hr =>
    exact .vramTransferEnd (s := s.withInert lcdc oam stat wy wx) fb hm h (hrender.trans hr)
  | renderFault k hm h hr =>
    exact .renderFault (s := s.withInert lcdc oam stat wy wx) k hm h (hrender.trans hr)
  | vblankEntry hm h hl => exact .vblankEntry (s := s.withInert lcdc oam stat wy wx) hm h hl
  | lineOverflow hm h hl => exact .lineOverflow (s := s.withInert lcdc oam stat wy wx) hm h hl
  | nextLine hm h hl hl' => exact .nextLine (s := s.withInert lcdc oam stat wy wx) hm h hl hl'
  | frameWrap hm h hl => exact .frameWrap (s := s.withInert lcdc oam stat wy wx) hm h hl
  | nextVblankLine hm h hl => exact .nextVblankLine (s := s.withInert lcdc oam stat wy wx) hm h hl

end

/-- Settles O53: a faulted block answers `Faulted` whatever the replaced state is. -/
theorem advanceIgnoresInertState : Obligations.AdvanceIgnoresInertState := by
  intro s t delta lcdc oam stat wy wx hmap hdata h
  rcases execAdvance_next h with ⟨k, hf, rfl⟩ | ⟨hf, h⟩
  · exact exec_of_moves (.faulted (s := s.withInert lcdc oam stat wy wx) _ k hf)
  · exact exec_of_advances (s := s.withInert lcdc oam stat wy wx) hf (h.withInert hmap hdata)

end Sys2Proof.Machine
end

section
/-! R158, R159 and R202: one visible line, the states a frame passes through, the picture it draws, and
the first frame after reset. -/

namespace Sys2Proof.Machine

/-! ### One line -/

/-- The state in which a line begins: OAMSearch with the counter at 0. -/
structure StartsLine (s : State) : Prop where
  fault_eq : s.fault = none
  mode_eq : s.mode = .oamSearch
  counter_eq : s.cycleCounter = 0

/-- Settles O37, by the three transitions of a line. -/
theorem advlineRendersOneVisibleLine : Obligations.AdvlineRendersOneVisibleLine := by
  intro s hf hm hc hl
  have hoam := oamSearchEndsAt80 s 80 hf hm (by omega)
  obtain ⟨fb, hr, hvram⟩ := vramTransferEndsAt172
    { s with mode := .vramTransfer, cycleCounter := 0, result := some .ok } 172 hf rfl (by simp) hl
  obtain ⟨hentry, hnext⟩ := hblankEndsAt204
    { s with mode := .hblank, cycleCounter := 0, fb := fb, result := some .ok } 204 hf rfl (by simp)
  refine ⟨fb, hr, ?_⟩
  rw [execAll_cons hoam, execAll_cons hvram]
  split_ifs with hlast
  · have hne : s.line ≠ 143#8 := fun heq => by simp [heq] at hlast
    have hne' : s.line ≠ 255#8 := fun heq => by simp [heq] at hlast
    rw [execAll_cons (hnext hne hne'), ← hm, ← hc]; rfl
  · have heq : s.line = 143#8 := BitVec.eq_of_toNat_eq (by show s.line.toNat = 143; omega)
    rw [execAll_cons (hentry heq), ← hc]; rfl

/-! ### R159: the states of a frame -/

/-- `t` has just begun the mode `m`, or a line of it, on line `l` with the flag `flag`. -/
structure Begins (m : Mode) (l : Nat) (flag : Bool) (t : State) : Prop where
  fault_eq : t.fault = none
  counter_eq : t.cycleCounter = 0
  mode_eq : t.mode = m
  line_eq : t.line.toNat = l
  flag_eq : t.vblankPending = flag

section
variable {l : Nat} {flag : Bool} {t : State}

theorem Begins.oamSearch_end (h : Begins .oamSearch l flag t) :
    ∃ u, exec (.advance 80) t = .next u ∧ Begins .vramTransfer l flag u := by
  obtain ⟨hf, hc, hm, hl, hflag⟩ := h
  exact ⟨_, oamSearchEndsAt80 t 80 hf hm (by omega), hf, rfl, rfl, hl, hflag⟩

theorem Begins.vramTransfer_end (h : Begins .vramTransfer l flag t) (hvisible : l ≤ 143) :
    ∃ u, exec (.advance 172) t = .next u ∧ Begins .hblank l flag u := by
  obtain ⟨hf, hc, hm, hl, hflag⟩ := h
  obtain ⟨fb, -, hexec⟩ := vramTransferEndsAt172 t 172 hf hm (by omega) (by omega)
  exact ⟨_, hexec, hf, rfl, rfl, hl, hflag⟩

theorem Begins.hblank_end (h : Begins .hblank l flag t) (hvisible : l < 143) :
    ∃ u, exec (.advance 204) t = .next u ∧ Begins .oamSearch (l + 1) flag u := by
  obtain ⟨hf, hc, hm, hl, hflag⟩ := h
  have hexec := exec_of_advances hf
    (.nextLine hm (by omega : 204 ≤ t.cycleCounter + 204) (by omega) (by omega))
  exact ⟨_, hexec, hf, rfl, rfl, hl ▸ toNat_line_add_one (by omega), hflag⟩

theorem Begins.hblank_end_last (h : Begins .hblank 143 flag t) :
    ∃ u, exec (.advance 204) t = .next u ∧ Begins .vblank 144 true u := by
  obtain ⟨hf, hc, hm, hl, -⟩ := h
  have hexec := (hblankEndsAt204 t 204 hf hm (by omega)).1 (BitVec.eq_of_toNat_eq hl)
  exact ⟨_, hexec, hf, rfl, rfl, rfl, rfl⟩

theorem Begins.vblank_end (h : Begins .vblank l flag t) (hl' : l < 153) :
    ∃ u, exec (.advance 456) t = .next u ∧ Begins .vblank (l + 1) flag u := by
  obtain ⟨hf, hc, hm, hl, hflag⟩ := h
  have hexec := (vblankLineEndsAt456 t 456 hf hm (by omega)).1 (by omega)
  exact ⟨_, hexec, hf, rfl, hm, hl ▸ toNat_line_add_one (by omega), hflag⟩

theorem Begins.vblank_end_last (h : Begins .vblank 153 flag t) :
    ∃ u, exec (.advance 456) t = .next u ∧ Begins .oamSearch 0 flag u := by
  obtain ⟨hf, hc, hm, hl, hflag⟩ := h
  have hexec := (vblankLineEndsAt456 t 456 hf hm (by omega)).2 (by omega)
  exact ⟨_, hexec, hf, rfl, rfl, rfl, hflag⟩

end

/-- R159's list: the mode of state number `n` of a frame. -/
def frameMode (n : Nat) : Mode :=
  if n < 432 then
    if n % 3 = 0 then .oamSearch else if n % 3 = 1 then .vramTransfer else .hblank
  else if n < 442 then .vblank
  else .oamSearch

/-- R159's list: the line of state number `n` of a frame. -/
def frameLine (n : Nat) : Nat :=
  if n < 432 then n / 3 else if n < 442 then 144 + (n - 432) else 0

/-- The advance that leads from state number `n` of a frame to the next. -/
def frameInstr (n : Nat) : Instr :=
  if n < 432 then
    if n % 3 = 0 then .advance 80 else if n % 3 = 1 then .advance 172 else .advance 204
  else .advance 456

/-- `t` is state number `n` of the frame that begins with the flag `flag`. -/
def AtFrameState (flag : Bool) (n : Nat) (t : State) : Prop :=
  Begins (frameMode n) (frameLine n) (flag || decide (432 ≤ n)) t

/-- The advance of a state of the frame leads to the next one. -/
theorem AtFrameState.exec_next {flag : Bool} {n : Nat} {t : State} (h : AtFrameState flag n t)
    (hn : n < 442) : ∃ u, exec (frameInstr n) t = .next u ∧ AtFrameState flag (n + 1) u := by
  obtain hvisible | rfl | hvblank | rfl : n < 431 ∨ n = 431 ∨ (432 ≤ n ∧ n < 441) ∨ n = 441 := by omega
  · have hlt : n < 432 := by omega
    have hlt' : n + 1 < 432 := by omega
    have hflag : decide (432 ≤ n) = false := by simpa
    have hflag' : decide (432 ≤ n + 1) = false := by simpa
    simp only [AtFrameState, frameMode, frameLine, frameInstr, hlt, hlt', hflag, hflag', if_true] at h ⊢
    obtain h0 | h1 | h2 : n % 3 = 0 ∨ n % 3 = 1 ∨ n % 3 = 2 := by omega
    · have hmod : (n + 1) % 3 = 1 := by omega
      have hdiv : (n + 1) / 3 = n / 3 := by omega
      rw [h0] at h ⊢
      rw [hmod, hdiv]
      exact h.oamSearch_end
    · have hmod : (n + 1) % 3 = 2 := by omega
      have hdiv : (n + 1) / 3 = n / 3 := by omega
      rw [h1] at h ⊢
      rw [hmod, hdiv]
      exact h.vramTransfer_end (by omega)
    · have hmod : (n + 1) % 3 = 0 := by omega
      have hdiv : (n + 1) / 3 = n / 3 + 1 := by omega
      rw [h2] at h ⊢
      rw [hmod, hdiv]
      exact h.hblank_end (by omega)
  · obtain ⟨u, hu, hbegins⟩ := Begins.hblank_end_last h
    exact ⟨u, hu, by rw [AtFrameState, decide_eq_true (le_refl 432), Bool.or_true]; exact hbegins⟩
  · have hge : ¬ n < 432 := by omega
    have hge' : ¬ n + 1 < 432 := by omega
    have hlt' : n + 1 < 442 := by omega
    have hflag : decide (432 ≤ n) = decide (432 ≤ n + 1) := decide_eq_decide.mpr (by omega)
    have hline : 144 + (n + 1 - 432) = 144 + (n - 432) + 1 := by omega
    simp only [AtFrameState, frameMode, frameLine, frameInstr, hge, hge', hn, hlt', hflag, hline,
      if_true, if_false] at h ⊢
    exact h.vblank_end (by omega)
  · exact Begins.vblank_end_last h

theorem length_advlines (n : Nat) : (advlines n).length = 3 * n := by
  induction n with
  | zero => rfl
  | succ n ih =>
    have hline : advlineInstrs.length = 3 := rfl
    rw [advlines, List.length_append, hline, ih]; omega

/-- The advances of the visible lines, by their number. -/
theorem getElem?_advlines {k n : Nat} (h : n < 3 * k) (hn : n < 432) :
    (advlines k)[n]? = some (frameInstr n) := by
  induction k generalizing n with
  | zero => omega
  | succ k ih =>
    match n with
    | 0 | 1 | 2 => rfl
    | n + 3 =>
      have hlater : frameInstr (n + 3) = frameInstr n := by
        simp only [frameInstr, hn, (by omega : n < 432), Nat.add_mod_right]
      rw [hlater, ← ih (by omega) (by omega)]
      rfl

theorem getElem?_frameInstrs {n : Nat} (h : n < 442) : frameInstrs[n]? = some (frameInstr n) := by
  rw [frameInstrs, List.getElem?_append, length_advlines]
  split_ifs with hvisible
  · exact getElem?_advlines hvisible (by omega)
  · rw [List.getElem?_replicate, if_pos (by omega), frameInstr, if_neg hvisible]

theorem cyclesOf_advlines_append (n : Nat) (is : List Instr) :
    cyclesOf (advlines n ++ is) = 456 * n + cyclesOf is := by
  induction n with
  | zero => simp [advlines]
  | succ n ih =>
    simp only [advlines, advlineInstrs, List.cons_append, List.nil_append, cyclesOf, ih]
    omega

theorem cyclesOf_vblankLines (n : Nat) : cyclesOf (List.replicate n (.advance 456)) = 456 * n := by
  induction n with
  | zero => rfl
  | succ n ih => rw [List.replicate_succ, cyclesOf, ih]; omega

/-- R159: after `n` advances of a frame the block is in state number `n`. -/
theorem execAll_take_frameInstrs {s : State} (hs : AtFrameState s.vblankPending 0 s) {n : Nat}
    (hn : n ≤ 442) :
    ∃ t, execAll (frameInstrs.take n) s = .next t ∧ AtFrameState s.vblankPending n t := by
  induction n with
  | zero => exact ⟨s, rfl, hs⟩
  | succ n ih =>
    obtain ⟨t, ht, hat⟩ := ih (by omega)
    obtain ⟨u, hu, hat'⟩ := hat.exec_next hn
    refine ⟨u, ?_, hat'⟩
    rw [List.take_add_one, getElem?_frameInstrs hn, execAll_append ht]
    exact execAll_cons hu []

/-- Settles O38, by the states of the frame, one advance at a time. -/
theorem frameVisitsEveryLine : Obligations.FrameVisitsEveryLine := by
  refine ⟨by simp [frameInstrs, length_advlines],
    by rw [frameInstrs, cyclesOf_advlines_append, cyclesOf_vblankLines], ?_⟩
  intro s n hf hm hc hl hn
  obtain ⟨t, ht, hf', hc', hm', hl', hflag'⟩ :=
    execAll_take_frameInstrs (s := s) ⟨hf, hc, hm, by rw [hl]; rfl, by simp⟩ hn
  refine ⟨t, ht, hf', hc', hflag', fun hlt => ?_, fun hge hlt => ?_, fun heq => ?_⟩
  · exact ⟨hl'.trans (if_pos hlt), hm'.trans (if_pos hlt)⟩
  · have hnot : ¬ n < 432 := by omega
    simp only [frameMode, frameLine, hnot, hlt, if_true, if_false] at hm' hl'
    exact ⟨hl', hm'⟩
  · subst heq
    exact ⟨BitVec.eq_of_toNat_eq hl', hm'⟩

end Sys2Proof.Machine
end

section
/-! The picture a frame draws, from a start of a frame and from reset (R202), and R88's textual form. -/

namespace Sys2Proof.Machine

/-! ### The picture of a frame -/

/-- `fb` is `s`'s frame buffer with the rows from `first` to the bottom of the screen drawn. -/
structure DrawsRowsFrom (s : State) (first : Nat) (fb : FrameBuffer) : Prop where
  inside : ∀ y, first ≤ y → y < 144 → ∀ x < 160, fb.read (y * 160 + x) = backgroundPixel s y x
  above : ∀ i < first * 160, fb.read i = s.fb.read i

/-- The last row drawn draws the rows from it on. -/
theorem DrawsRow.rowsFrom_last {s : State} {fb : FrameBuffer} (h : DrawsRow s fb)
    (hl : s.line.toNat = 143) : DrawsRowsFrom s s.line.toNat fb := by
  refine ⟨fun y hfirst hy x hx => ?_, fun i hi => h.outside i (by omega)⟩
  obtain rfl : y = s.line.toNat := by omega
  exact h.inside x hx

/-- A row drawn, and then the rows below it from a state that differs in nothing the plane depends on. -/
theorem DrawsRow.rowsFrom {s s' : State} {fb fb' : FrameBuffer} (h : DrawsRow s fb)
    (h' : DrawsRowsFrom s' (s.line.toNat + 1) fb') (hfb : s'.fb = fb)
    (hsame : ∀ y x, backgroundPixel s' y x = backgroundPixel s y x) :
    DrawsRowsFrom s s.line.toNat fb' := by
  subst hfb
  refine ⟨fun y hfirst hy x hx => ?_, fun i hi => ?_⟩
  · rcases Nat.eq_or_lt_of_le hfirst with rfl | hbelow
    · rw [h'.above _ (by omega), h.inside x hx]
    · rw [h'.inside y hbelow hy x hx, hsame]
  · rw [h'.above i (by omega), h.outside i (.inl hi)]

/-- The state after an `advline` of R158 on a line above 143 that gave the frame buffer `fb`. -/
def State.nextLine (s : State) (fb : FrameBuffer) : State :=
  { s with line := s.line + 1#8, fb := fb, result := some .ok }

/-- One `advline` of R158 with the row it draws. -/
theorem execAll_advline {s : State} (hs : StartsLine s) (hl : s.line.toNat ≤ 143) :
    ∃ fb, DrawsRow s fb ∧
      execAll advlineInstrs s =
        .next
          (if s.line.toNat < 143 then
            s.nextLine fb
          else
            { s with mode := .vblank, line := 144#8, vblankPending := true, fb := fb,
                     result := some .ok }) := by
  obtain ⟨fb, hr, hexec⟩ := advlineRendersOneVisibleLine s hs.fault_eq hs.mode_eq hs.counter_eq hl
  exact ⟨fb, drawsRow_of_renderScanline_ok hr, hexec⟩

/-- R158 repeated: the `advline`s from a line to line 143 draw the rows from it on and enter VBlank. -/
theorem execAll_advlines {n : Nat} {s : State} (hs : StartsLine s) (hl : s.line.toNat + n = 143) :
    ∃ fb, DrawsRowsFrom s s.line.toNat fb ∧
      execAll (advlines (n + 1)) s =
        .next { s with mode := .vblank, line := 144#8, vblankPending := true, fb := fb,
                       result := some .ok } := by
  induction n generalizing s with
  | zero =>
    obtain ⟨fb, hdraws, hexec⟩ := execAll_advline hs (by omega)
    rw [if_neg (by omega)] at hexec
    exact ⟨fb, hdraws.rowsFrom_last hl, hexec⟩
  | succ n ih =>
    obtain ⟨fb, hdraws, hexec⟩ := execAll_advline hs (by omega)
    rw [if_pos (by omega)] at hexec
    have hline : (s.nextLine fb).line.toNat = s.line.toNat + 1 := toNat_line_add_one (by omega)
    obtain ⟨fb', hdraws', hexec'⟩ :=
      ih (s := s.nextLine fb) ⟨hs.fault_eq, hs.mode_eq, hs.counter_eq⟩ (by omega)
    rw [hline] at hdraws'
    refine ⟨fb', hdraws.rowsFrom hdraws' rfl fun _ _ => rfl, ?_⟩
    rw [advlines, execAll_append hexec, hexec']; rfl

/-- R155 repeated: the VBlank lines from a line to line 153 end at the start of line 0. -/
theorem execAll_vblankLines {n : Nat} {s : State} (hf : s.fault = none) (hm : s.mode = .vblank)
    (hl : s.line.toNat + n = 153) :
    execAll (List.replicate (n + 1) (.advance 456)) s =
      .next { s with mode := .oamSearch, cycleCounter := 0, line := 0#8, result := some .ok } := by
  induction n generalizing s with
  | zero => exact execAll_cons ((vblankLineEndsAt456 s 456 hf hm (by omega)).2 (by omega)) []
  | succ n ih =>
    have hline : (s.line + 1#8).toNat = s.line.toNat + 1 := toNat_line_add_one (by omega)
    rw [List.replicate_succ,
      execAll_cons ((vblankLineEndsAt456 s 456 hf hm (by omega)).1 (by omega))]
    exact ih (s := { s with cycleCounter := 0, line := s.line + 1#8, result := some .ok }) hf hm
      (by rw [hline]; omega)

/-- Settles O39: 144 lines draw the picture, and 10 more bring mode, counter and line back. -/
theorem frameDrawsTheWholeBackground : Obligations.FrameDrawsTheWholeBackground := by
  intro s hf hm hc hl
  have hl0 : s.line.toNat = 0 := by rw [hl]; rfl
  obtain ⟨fb, hdraws, hvisible⟩ := execAll_advlines (n := 143) ⟨hf, hm, hc⟩ (by omega)
  have hvblank := execAll_vblankLines (n := 9)
    (s := { s with mode := .vblank, line := 144#8, vblankPending := true, fb := fb, result := some .ok })
    hf rfl rfl
  refine ⟨_, (execAll_append hvisible _).trans hvblank, fun y hy => hdraws.inside y (by omega) hy, ?_⟩
  simp [hm, hc, hl]

/-! ### The first frame after reset -/

/-- Tile data of zeros is ordinal 0 everywhere, which is white (R86). -/
theorem backgroundPixel_of_vram_nil {s : State} (h : s.vram = []) (y x : Nat) :
    backgroundPixel s y x = ⟨255, 255, 255⟩ := by
  have hblank : ∀ sel t p, decodeTilePixel [] sel t p = 0 := by
    intro sel t p
    simp [decodeTilePixel, bitAt, ordinalOfBits]
  simp [backgroundPixel, h, hblank, toRgb]

/-- Settles O40: reset is in HBlank of line 0, so the first line drawn is 1 (R202). -/
theorem firstFrameAfterResetSkipsRowZero : Obligations.FirstFrameAfterResetSkipsRowZero := by
  have hfirst := (hblankEndsAt204 State.reset 204 rfl rfl (by decide)).2 (by decide) (by decide)
  obtain ⟨fb, hdraws, hvisible⟩ := execAll_advlines (n := 142)
    (s := { State.reset with mode := .oamSearch, cycleCounter := 0, line := 1#8, result := some .ok })
    ⟨rfl, rfl, rfl⟩ rfl
  have hcycles := cyclesOf_advlines_append 143
  refine ⟨?_, ?_, _, _, (execAll_cons hfirst _).trans hvisible, rfl, rfl, rfl, rfl,
    execAll_vblankLines (n := 9) rfl rfl rfl, rfl, rfl, rfl, fun x hx => ?_, fun y hy hy' x hx => ?_⟩
  · have := hcycles []
    rw [List.append_nil] at this
    rw [cyclesOf, this, cyclesOf]
  · rw [List.cons_append, cyclesOf, hcycles, cyclesOf_vblankLines]
  · exact hdraws.above x (by simpa using hx)
  · exact (hdraws.inside y hy hy' x hx).trans (backgroundPixel_of_vram_nil rfl y x)

/-! ### The textual form -/

/-- Settles O58: closed lines, assembled. -/
theorem textAssemblesToTheWords : Obligations.TextAssemblesToTheWords :=
  ⟨rfl, rfl, rfl, rfl, rfl, rfl⟩

end Sys2Proof.Machine
end
